-- ==== Sys2Proof/Word.lean ====
section
/-! DEFINITION. The word types of the block: a byte, a 6-bit symbol value, a decode table entry (30 R90, format T). -/

namespace Sys2Proof

/-- A byte of SRC or TGT, a window slot, a symbol byte (20 R61, R62, 10 R21). -/
abbrev Byte := BitVec 8

/-- The value of a symbol, 0 to 63 (40 R131, R132). -/
abbrev Value := BitVec 6

/-- An entry of DTAB0..DTAB3: value in bits 23..0, SPECIAL bit 24, ILLEGAL bit 25 (30 R95). -/
abbrev Entry := BitVec 26

/-- An index of ETAB1 (40 R142). -/
abbrev Window12 := BitVec 12

end Sys2Proof
end

