-- ==== Sys2Proof/Config.lean ====
section
/-! DEFINITION. What an implementation fixes (the parameters of 00 R8) and the free values (93, treatment "any value"). -/

namespace Sys2Proof

/-- The parameters of 00 R8 that can change what the block does. SPECIAL_BIT and ILLEGAL_BIT have no observable effect
(92 D6) and are fixed at 24 and 25 (log entry 6). State carries one Config that no step writes. -/
structure Config where
  /-- LEN_W, the width of SLEN, TCAP, SI and TI (92 D3). -/
  lenW : Nat
  /-- WS_SET, the bytes classified as whitespace (92 D4). -/
  ws : List Byte
  /-- COMMA_VALUE, the value of the symbol byte 0x2C (92 D5). -/
  comma : Value
  /-- SILENT_BIT, the place of SILENT in a FLAGS word (92 D7). -/
  silentBit : Nat
  /-- WRAP_BIT, the place of WRAP in a FLAGS word (92 D7). -/
  wrapBit : Nat
  /-- FASTPATH, whether the decode FSM has the 4-byte step (92 D8). -/
  fastPath : Bool
deriving DecidableEq, Repr

/-- The default parameters of 00 R8. -/
def Config.default : Config :=
  { lenW := 32, ws := [0x09, 0x0A, 0x0D, 0x20], comma := 63, silentBit := 0, wrapBit := 1, fastPath := true }

/-! The free values: constants without a body, so that nothing can be proved of a value of theirs. The first argument says
which draw it is (State.runs or State.draws at the time). -/

/-- The byte a never-written SRC[i] holds during the run-th command (93 U2). -/
opaque Config.freeSrc (run i : Nat) : Byte

/-- The byte a read of an unspecified TGT[i] returns (93 U1, U4, U7, U8). -/
opaque Config.freeTgt (draw i : Nat) : Byte

/-- RESULT after ERROR, and as read while BUSY, before it is cut to its width (93 U4, U7). -/
opaque Config.freeResult (draw : Nat) : Nat

/-- SI after ERROR, before it is cut to its width (93 U4). -/
opaque Config.freeSi (draw : Nat) : Nat

/-- TI after ERROR, before it is cut to its width (93 U4). -/
opaque Config.freeTi (draw : Nat) : Nat

/-- WN after ERROR (93 U4). -/
opaque Config.freeWn (draw : Nat) : BitVec 3

/-- LINE after ERROR (93 U4). -/
opaque Config.freeLine (draw : Nat) : BitVec 7

/-- W[k] after ERROR, and after a reset the host applies (93 U4, U6). -/
opaque Config.freeSlot (draw k : Nat) : Byte

end Sys2Proof
end

