-- ==== Sys2Proof/Machine/Memory.lean ====
section
/-! DEFINITION. A byte memory as plain data: the cells that hold a value, addresses strictly rising. An address that is not
listed holds no value (10 R50); what a read of it returns is the reader's business (Machine/Ops.lean). -/

namespace Sys2Proof.Machine

/-- A buffer (10 R40, R41): the bytes that hold a value, by index. -/
abbrev Memory := List Host.Cell

/-- The canonical form: addresses strictly rising. No listed byte equals what an unlisted address reads as, since that is
no value at all. -/
abbrev Memory.wf (m : Memory) : Prop := m.Pairwise (fun x y => x.1 < y.1)

/-- The byte at index a, none where no value is held. -/
def readCell : Memory → Nat → Option Byte
  | [], _ => none
  | (k, v) :: m, a => if a = k then some v else readCell m a

/-- Write one byte. -/
def writeCell : Memory → Nat → Byte → Memory
  | [], a, v => [(a, v)]
  | (k, w) :: m, a, v =>
    if a < k then (a, v) :: (k, w) :: m
    else if a = k then (a, v) :: m
    else (k, w) :: writeCell m a v

/-- Write consecutive bytes from index a, lowest index first (20 R62). -/
def writeBytes (m : Memory) (a : Nat) : List Byte → Memory
  | [] => m
  | b :: bs => writeBytes (writeCell m a b) (a + 1) bs

/-- Keep only the bytes below index n: from n on no value is held (20 R64). -/
def keepBelow (m : Memory) (n : Nat) : Memory := m.filter (fun cell => decide (cell.1 < n))

end Sys2Proof.Machine
end

