-- ==== Sys2Proof/Syntax.lean ====
section
/-! DEFINITION. The instructions: one constructor per mnemonic of spec/opcode_table.json (00 R6, 30 R105), and the encoded
items that have a bit pattern (30 R90). -/

namespace Sys2Proof

/-- The instructions of the block. "Instruction" is read as 00 R6 and the index do: the byte classes of a DECODE source,
the steps the state selects, the commands, and the pseudo-operations. -/
inductive Instr where
  /-- D.SYM (41 R171): the symbol byte `b`. -/
  | dSym (b : Byte)
  /-- D.SKIP (41 R172): the whitespace or padding byte `b`. -/
  | dSkip (b : Byte)
  /-- D.ILL (41 R173): the illegal byte `b`. -/
  | dIll (b : Byte)
  /-- D.QUAD (41 R175). -/
  | dQuad
  /-- D.TAIL0 (41 R181). -/
  | dTail0
  /-- D.TAIL1 (41 R182). -/
  | dTail1
  /-- D.TAIL2 (41 R183). -/
  | dTail2
  /-- D.TAIL3 (41 R184). -/
  | dTail3
  /-- E.BREAK (42 R214). -/
  | eBreak
  /-- E.GROUP (42 R213). -/
  | eGroup
  /-- E.TAIL1 (42 R215). -/
  | eTail1
  /-- E.TAIL2 (42 R216). -/
  | eTail2
  /-- E.FINISH (42 R217). -/
  | eFinish
  /-- L.ENCLEN (43 R251). -/
  | lEnclen
  /-- NOP (44 R272). -/
  | cmdNop
  /-- DECODE (44 R271, R273). -/
  | cmdDecode
  /-- ENCODE (44 R271, R274). -/
  | cmdEncode
  /-- ENCLEN (44 R271, 43 R251). -/
  | cmdEnclen
  /-- The public form decode(source, silent) (44 R279). -/
  | publicDecode (source : List Byte) (silent : Bool)
  /-- The public form encode(source, wrap) (44 R280). -/
  | publicEncode (source : List Byte) (wrap : Bool)
deriving DecidableEq, Repr

/-- The encoded items that select an instruction (30 R90): format B, a source byte; format C, a command code. -/
inductive Code where
  /-- Format B: a source byte of a DECODE command. -/
  | byte (b : Byte)
  /-- Format C: the two bits written to CMD. -/
  | cmd (op : BitVec 2)
deriving DecidableEq, Repr

end Sys2Proof
end

