-- ==== Sys2Proof/Machine/State.lean ====
section
/-! DEFINITION. The state of one block (10 R20) with the host's pending actions and replies (44 R278), the reasons a step
can stop, and the state after reset (10 R50, 70 R340). -/

namespace Sys2Proof.Machine

/-- The window W[0..3] (10 R21): raw symbol bytes, slot k for quartet position k. -/
structure Window where
  w0 : Byte
  w1 : Byte
  w2 : Byte
  w3 : Byte
deriving DecidableEq, Repr

/-- FLAGS (10 R31): its two bits, by name. Other bits of a written word are ignored and read 0. -/
structure Flags where
  silent : Bool
  wrap : Bool
deriving DecidableEq, Repr

/-- STATUS (10 R34). -/
inductive Status where
  | idle
  | busy
  | done
  | error
deriving DecidableEq, Repr

/-- The operation codes of CMD and OPL (10 R27, R30). -/
inductive Op where
  | nop
  | decode
  | encode
  | enclen
deriving DecidableEq, Repr

/-- The error kinds of ERRCODE (60 R301). -/
inductive ErrCode where
  | none
  | targetTooSmall
  | corrupt
  | truncated
  | sourceOverflow
  | targetOverflow
  | window
deriving DecidableEq, Repr

/-- What the host can do to the block (44 R278), and how it lets the block run. -/
inductive HostAction where
  /-- Write consecutive bytes of SRC from an index on. -/
  | writeSrc (start : Nat) (bytes : List Byte)
  /-- Write consecutive bytes of TGT from an index on. -/
  | writeTgt (start : Nat) (bytes : List Byte)
  /-- Write a word to the register of that number (10 R30 to R37). -/
  | writeReg (number word : Nat)
  /-- Read the register of that number. -/
  | readReg (number : Nat)
  /-- Read one byte of TGT. -/
  | readTgt (index : Nat)
  /-- Apply the block's reset (70 R340, R341). -/
  | reset
  /-- Do nothing while the block takes one step. -/
  | run
  /-- Wait until STATUS is not BUSY (44 R279). -/
  | wait
  /-- Read RESULT and write it to TCAP (44 R280, "TCAP <- RESULT"). -/
  | sizeTarget
  /-- Wait until STATUS is not BUSY, then take the result of a public form: the error of ERRCODE, or TGT[0 .. RESULT-1]
  (44 R279). -/
  | collect
  /-- Use the public form decode(source, silent) (44 R279). -/
  | publicDecode (source : List Byte) (silent : Bool)
  /-- Use the public form encode(source, wrap) (44 R280). -/
  | publicEncode (source : List Byte) (wrap : Bool)
deriving DecidableEq, Repr

/-- What a host action returned (44 R278). -/
inductive HostReply where
  /-- A register's value, zero-extended. -/
  | value (word : Nat)
  /-- A byte of TGT. -/
  | byte (b : Byte)
  /-- The bytes a public form returns. -/
  | bytes (bs : List Byte)
  /-- The error a public form fails with. -/
  | failed (e : ErrCode)
deriving DecidableEq, Repr

/-- Why the machine stops where the spec gives it no move. -/
inductive Fault where
  /-- A host write to SRC at an index that LEN_W bits cannot express (20 R60). Raised by the host's writeSrc. Safe: the
  model stops where the spec has no such byte. -/
  | noSuchSource
  /-- A host access to TGT at an index TCAP or above (10 R41, 93 U10). Raised by the host's writeTgt and readTgt, and not by
  collect (log entry 14). Safe: the model stops where the spec has no such byte. -/
  | noSuchTarget
  /-- STATUS is BUSY and OPL is NOP: no engine's steps are enabled (10 R27). Raised by step; no run reaches it (a command
  start never latches NOP). Safe: the machine is stuck. -/
  | noEngine
deriving DecidableEq, Repr

/-- Why the machine has no meaning for a move. -/
inductive Refusal where
  /-- An instruction of the table that has no meaning yet. Raised by exec's arms. Safe. -/
  | notModelled (mnemonic : String)
  /-- The host writes SRC, TGT, FLAGS, SLEN, TCAP or CMD while STATUS is BUSY: the spec gives the host no such move (70 R350,
  93 U3). Raised by the host's writes and by the commands. Safe in itself; that every claim holds
  only for hosts that keep the duty is log entry 9. -/
  | hostWriteWhileBusy
  /-- The step is not enabled in this state: the machine has no such move (41 R161, 42 R211). Raised by the meanings of the
  engines' steps, for states in which step does not choose them. Safe. -/
  | notEnabled
  /-- A public form is given a source longer than SLEN can say (10 R32). Raised by the public forms. Safe. -/
  | sourceTooLong
deriving DecidableEq, Repr

/-- The state of one block, and the host's side of it. -/
structure State where
  /-- The parameters (00 R8). No step writes it. -/
  cfg : Config
  /-- W[0..3] (10 R21). -/
  w : Window
  /-- WN, 3 bits (10 R22). -/
  wn : BitVec 3
  /-- SI, LEN_W bits (10 R24). -/
  si : Nat
  /-- TI, LEN_W bits (10 R25). -/
  ti : Nat
  /-- LINE, 7 bits (10 R26). -/
  line : BitVec 7
  /-- OPL, 2 bits (10 R27). -/
  opl : Op
  /-- FLAGS, host register 1 (10 R31). -/
  flags : Flags
  /-- SLEN, host register 2, LEN_W bits (10 R32). -/
  slen : Nat
  /-- TCAP, host register 3, LEN_W bits (10 R33). -/
  tcap : Nat
  /-- STATUS, host register 4 (10 R34). -/
  status : Status
  /-- ERRCODE, host register 5 (10 R35). -/
  errcode : ErrCode
  /-- RESULT, host register 6, LEN_W + 1 bits (10 R36). -/
  result : Nat
  /-- SRC (10 R40). -/
  src : Memory
  /-- TGT (10 R41). -/
  tgt : Memory
  /-- The model's own: the running DECODE or ENCODE has passed its size check (44 R273, R274; log entry 4). -/
  sized : Bool
  /-- The model's own: commands started so far, which indexes the free bytes of SRC (93 U2). -/
  runs : Nat
  /-- The model's own: free values drawn so far. -/
  draws : Nat
  /-- The model's own: what the host does next, oldest first (44 R278). -/
  hostIn : List HostAction
  /-- The model's own: what the host's reads have returned, newest first (44 R278). -/
  replies : List HostReply
deriving DecidableEq, Repr

/-- The state after reset (10 R50, 70 R340). W is 0 where the spec leaves it unspecified (log entry 1); SRC and TGT hold no
value; the model's own fields start empty (log entries 4 and 19); the parameters have their defaults (00 R8). -/
def State.reset : State :=
  { cfg := Config.default
    w := { w0 := 0, w1 := 0, w2 := 0, w3 := 0 }
    wn := 0
    si := 0
    ti := 0
    line := 0
    opl := .nop
    flags := { silent := false, wrap := false }
    slen := 0
    tcap := 0
    status := .idle
    errcode := .none
    result := 0
    src := []
    tgt := []
    sized := false
    runs := 0
    draws := 0
    hostIn := []
    replies := [] }

end Sys2Proof.Machine
end

