-- ==== Sys2Proof/Machine/Flags.lean ====
section
/-! DEFINITION. FLAGS as a word, and the codes of STATUS, ERRCODE and OPL as the host reads and writes them (10 R27 to R35,
60 R301; log entry 25). -/

namespace Sys2Proof.Machine

/-- The flags a word written to FLAGS sets: SILENT_BIT and WRAP_BIT; every other bit is ignored (10 R31). -/
def flagsOfWord (c : Config) (word : Nat) : Flags :=
  { silent := word.testBit c.silentBit, wrap := word.testBit c.wrapBit }

/-- FLAGS as the host reads it: every other bit reads 0 (10 R31). -/
def flagsWord (c : Config) (f : Flags) : Nat :=
  (if f.silent then 2 ^ c.silentBit else 0) + (if f.wrap then 2 ^ c.wrapBit else 0)

/-- The value of STATUS (10 R34). -/
def statusCode : Status → Nat
  | .idle => 0
  | .busy => 1
  | .done => 2
  | .error => 3

/-- The value of ERRCODE (60 R301). -/
def errorCode : ErrCode → Nat
  | .none => 0
  | .targetTooSmall => 1
  | .corrupt => 2
  | .truncated => 3
  | .sourceOverflow => 4
  | .targetOverflow => 5
  | .window => 6

/-- The code of an operation in CMD and OPL (10 R27, R30). -/
def opCode : Op → BitVec 2
  | .nop => 0#2
  | .decode => 1#2
  | .encode => 2#2
  | .enclen => 3#2

end Sys2Proof.Machine
end

