-- ==== Sys2Proof/Machine/Length.lean ====
section
/-! DEFINITION. The length calculator's functions (43), over the natural numbers (43 R254): no sum wraps. -/

namespace Sys2Proof.Machine

/-- ceil(n/d) for d > 0 (43 R255). -/
def ceilDiv (n d : Nat) : Nat := (n + d - 1) / d

/-- ENCLEN(n, wrap), the exact encoded length (43 R250). The subtraction is over the naturals: max(lines - 1, 0). -/
def enclen (n : Nat) (wrap : Bool) : Nat :=
  let symbols := ceilDiv n 3 * 4
  if wrap then symbols + (ceilDiv symbols 76 - 1) * 2 else symbols

/-- DECCAP(n), the capacity a DECODE requires (43 R252). -/
def deccap (n : Nat) : Nat := ceilDiv n 4 * 3

end Sys2Proof.Machine
end

