-- ==== Sys2Proof/Machine/Ops.lean ====
section
/-! DEFINITION. The shared operations: reading a source byte, writing target bytes, raising an error, ending a command,
starting one, the size check, and reset. -/

namespace Sys2Proof.Machine

/-- Slot k of the window (10 R21). There are four; a window count above 3 is an error before any slot is used (41 R185). -/
def Window.slot (w : Window) : Nat → Byte
  | 0 => w.w0
  | 1 => w.w1
  | 2 => w.w2
  | _ => w.w3

/-- Store a byte in slot k (41 R171). There is no slot above 3, and nothing is stored there. -/
def Window.store (w : Window) (b : Byte) : Nat → Window
  | 0 => { w with w0 := b }
  | 1 => { w with w1 := b }
  | 2 => { w with w2 := b }
  | 3 => { w with w3 := b }
  | _ => w

/-- SRC[i] (20 R61). A byte the host never wrote holds any value, drawn once for the command (93 U2, log entry 2). -/
def srcByte (s : State) (i : Nat) : Byte := (readCell s.src i).getD (Config.freeSrc s.runs i)

/-- raise (60 R310): ERRCODE and STATUS are written and the command is over. What 60 R311 leaves unspecified is a free value
each: RESULT, SI, TI, WN, LINE, W; TGT holds no value any more. FLAGS, SLEN, TCAP, OPL and SRC keep theirs. -/
def raise (e : ErrCode) (s : State) : State :=
  { s with
    errcode := e
    status := .error
    result := Config.freeResult s.draws % 2 ^ (s.cfg.lenW + 1)
    si := Config.freeSi s.draws % 2 ^ s.cfg.lenW
    ti := Config.freeTi s.draws % 2 ^ s.cfg.lenW
    wn := Config.freeWn s.draws
    line := Config.freeLine s.draws
    w := { w0 := Config.freeSlot s.draws 0, w1 := Config.freeSlot s.draws 1,
           w2 := Config.freeSlot s.draws 2, w3 := Config.freeSlot s.draws 3 }
    tgt := []
    draws := s.draws + 1 }

/-- Write bytes at TI, in rising order, advance TI past them, and go on (20 R62). A byte that would fall at TCAP or above is
the OverflowError of 20 R63, "target overflow" (log entry 10). -/
def emit (bytes : List Byte) (goOn : State → State) (s : State) : State :=
  if s.tcap < s.ti + bytes.length then raise .targetOverflow s
  else goOn { s with tgt := writeBytes s.tgt s.ti bytes, ti := s.ti + bytes.length }

/-- The end of DECODE and ENCODE (41 R180, 42 R217): the two index assertions (60 R307, R308), then RESULT <- TI and
STATUS <- DONE. From RESULT on TGT is unspecified (20 R64), so nothing is kept there. -/
def finish (s : State) : State :=
  if s.slen < s.si then raise .sourceOverflow s
  else if s.tcap < s.ti then raise .targetOverflow s
  else { s with result := s.ti, status := .done, tgt := keepBelow s.tgt s.ti }

/-- Command start (44 R271). -/
def commandStart (op : Op) (s : State) : State :=
  { s with
    opl := op, status := .busy, errcode := .none, result := 0
    si := 0, ti := 0, wn := 0, line := 0
    sized := false, runs := s.runs + 1 }

/-- The size check, the first step of DECODE and ENCODE (44 R273, R274). -/
def sizeCheck (need : Nat) (s : State) : State :=
  if s.tcap < need then raise .targetTooSmall s else { s with sized := true }

/-- The block's reset (70 R340, R341). W is unspecified, so it takes free values; TGT holds no value any more; SRC is
unchanged if a command was running (R341) and otherwise unspecified (R340). The parameters, the host's side and the model's
counters are no state of the block. -/
def hardReset (s : State) : State :=
  { State.reset with
    cfg := s.cfg
    w := { w0 := Config.freeSlot s.draws 0, w1 := Config.freeSlot s.draws 1,
           w2 := Config.freeSlot s.draws 2, w3 := Config.freeSlot s.draws 3 }
    src := if s.status = .busy then s.src else []
    runs := s.runs
    draws := s.draws + 1
    hostIn := s.hostIn
    replies := s.replies }

/-- The decode engine is running and past its size check (41 R161). -/
def decodeRunning (s : State) : Bool := s.status == .busy && s.opl == .decode && s.sized

/-- The encode engine is running and past its size check (42 R211). -/
def encodeRunning (s : State) : Bool := s.status == .busy && s.opl == .encode && s.sized

end Sys2Proof.Machine
end

