-- ==== Sys2Proof/Machine/Commands.lean ====
section
/-! DEFINITION. The commands (44). A write of DECODE, ENCODE or ENCLEN to CMD while STATUS is not BUSY is the command start
(R271). DECODE and ENCODE have a second step of their own, the size check (R273, R274), which the running block takes while
it has not passed it (log entry 4). While BUSY the host has no write to CMD at all (70 R350; log entries 9, 17). -/

namespace Sys2Proof.Machine

/-- NOP (44 R272): nothing changes, in any STATUS. That the host does not write it while BUSY is hostMove's (log entry 17). -/
def execCmdNop (s : State) : Host.Outcome State Fault Refusal := .next s

/-- DECODE (44 R271, R273). -/
def execCmdDecode (s : State) : Host.Outcome State Fault Refusal :=
  if s.status ≠ .busy then .next (commandStart .decode s)
  else if s.opl = .decode ∧ s.sized = false then .next (sizeCheck (deccap s.slen) s)
  else .refused .hostWriteWhileBusy

/-- ENCODE (44 R271, R274). -/
def execCmdEncode (s : State) : Host.Outcome State Fault Refusal :=
  if s.status ≠ .busy then .next (commandStart .encode s)
  else if s.opl = .encode ∧ s.sized = false then .next (sizeCheck (enclen s.slen s.flags.wrap) s)
  else .refused .hostWriteWhileBusy

/-- ENCLEN (44 R271): the command start; its one step is L.ENCLEN. -/
def execCmdEnclen (s : State) : Host.Outcome State Fault Refusal :=
  if s.status ≠ .busy then .next (commandStart .enclen s) else .refused .hostWriteWhileBusy

end Sys2Proof.Machine
end

