-- ==== Sys2Proof/Machine/Rom.lean ====
section
/-! DEFINITION. The alphabet ROM (40): the alphabet, the class and value of a byte, the four decode tables, the two encode
tables and the three lookups. The tables are constants of the design (40 R150), so they are functions, not state. -/

namespace Sys2Proof.Machine

/-- The class of a source byte on decode (00 R14). -/
inductive ByteClass where
  | sym
  | skip
  | ill
deriving DecidableEq, Repr

/-- ALPHA[v], the canonical symbol byte of value v (40 R131, closed form). -/
def alpha (v : Value) : Byte :=
  if v ≤ 25#6 then 0x41#8 + v.setWidth 8
  else if v ≤ 51#6 then 0x61#8 + (v.setWidth 8 - 26#8)
  else if v ≤ 61#6 then 0x30#8 + (v.setWidth 8 - 52#8)
  else if v = 62#6 then 0x2B#8
  else 0x2F#8

/-- The value of a byte that is a symbol of one of the three alphabets, none for any other byte (30 R92, 40 R132). -/
def symVal (c : Config) (b : Byte) : Option Value :=
  if 0x41#8 ≤ b ∧ b ≤ 0x5A#8 then some ((b - 0x41#8).setWidth 6)
  else if 0x61#8 ≤ b ∧ b ≤ 0x7A#8 then some ((b - 0x61#8 + 26#8).setWidth 6)
  else if 0x30#8 ≤ b ∧ b ≤ 0x39#8 then some ((b - 0x30#8 + 52#8).setWidth 6)
  else if b = 0x2B#8 ∨ b = 0x2D#8 then some 62#6
  else if b = 0x2F#8 ∨ b = 0x5F#8 then some 63#6
  else if b = 0x2C#8 then some c.comma
  else none

/-- val(b) (40 R132). The spec defines it on symbol bytes only; no rule reads it elsewhere. -/
def val (c : Config) (b : Byte) : Value := (symVal c b).getD 0

/-- class(b) (30 R92): a symbol of any alphabet; else whitespace or padding; else illegal. -/
def classOf (c : Config) (b : Byte) : ByteClass :=
  if (symVal c b).isSome then .sym
  else if b ∈ c.ws ∨ b = 0x3D#8 then .skip
  else .ill

/-- The marker of a SKIP byte: SPECIAL alone (30 R95). -/
def skipEntry : Entry := 0x1000000#26

/-- The marker of an ILL byte: SPECIAL and ILLEGAL (30 R95). -/
def illEntry : Entry := 0x3000000#26

/-- A symbol's entry of table p: its value shifted to the place of quartet position p (30 R96). -/
def symEntry (p : Fin 4) (v : Value) : Entry := v.setWidth 26 <<< (18 - 6 * p.val)

/-- DTAB[p][b], the lookup DLOOK (40 R133, R145). -/
def dtab (c : Config) (p : Fin 4) (b : Byte) : Entry :=
  match classOf c b with
  | .sym => symEntry p (val c b)
  | .skip => skipEntry
  | .ill => illEntry

/-- The class a decode table entry shows: SPECIAL clear is SYM, SPECIAL alone SKIP, both ILL (40 R145). -/
def entryClass (e : Entry) : ByteClass :=
  if e.getLsbD 24 = false then .sym
  else if e.getLsbD 25 = false then .skip
  else .ill

/-- A table of 256 entries with entry k overwritten. -/
def overwrite (t : Byte → Entry) (k : Byte) (e : Entry) : Byte → Entry := fun b => if b = k then e else t b

/-- The construction of DTAB[p] in three passes (40 R134): all illegal; whitespace and padding; the 67 symbol bytes. -/
def dtabBuilt (c : Config) (p : Fin 4) : Byte → Entry :=
  let pass1 : Byte → Entry := fun _ => illEntry
  let pass2 := overwrite (c.ws.foldl (fun t b => overwrite t b skipEntry) pass1) 0x3D#8 skipEntry
  let canonical := (List.range 64).foldl
    (fun t v => overwrite t (alpha (BitVec.ofNat 6 v)) (symEntry p (BitVec.ofNat 6 v))) pass2
  overwrite (overwrite (overwrite canonical 0x2D#8 (symEntry p 62#6)) 0x5F#8 (symEntry p 63#6))
    0x2C#8 (symEntry p c.comma)

/-- ETAB0[b], the lookup ELOOK0 (40 R141, R146). -/
def etab0 (b : Byte) : Byte := alpha ((b >>> 2).setWidth 6)

/-- ETAB1[w], the lookup ELOOK1 (40 R142, R147). -/
def etab1 (w : Window12) : Byte := alpha (w.setWidth 6)

end Sys2Proof.Machine
end

