-- ==== Sys2Proof/Machine/Operands.lean ====
section
/-! DEFINITION. Operand assembly: the OR of decode table entries and its bytes (30 R96, 41 R165), the symbols of a triplet
by table lookup (30 R97, 40 R143), and when each step is enabled (30 R99, 41 R161, 42 R211). -/

namespace Sys2Proof.Machine

/-- The OR of one entry of each decode table (41 R165, R175). -/
def quartetEntry (c : Config) (b0 b1 b2 b3 : Byte) : Entry := dtab c 0 b0 ||| dtab c 1 b1 ||| dtab c 2 b2 ||| dtab c 3 b3

/-- Byte 0 of the 24-bit word of an entry: bits 23..16 (20 R66). -/
def wordByte0 (e : Entry) : Byte := e.extractLsb' 16 8

/-- Byte 1: bits 15..8. -/
def wordByte1 (e : Entry) : Byte := e.extractLsb' 8 8

/-- Byte 2: bits 7..0. -/
def wordByte2 (e : Entry) : Byte := e.extractLsb' 0 8

/-- dec4 (41 R165): the triplet of a quartet. -/
def dec4 (c : Config) (b0 b1 b2 b3 : Byte) : List Byte :=
  let word := quartetEntry c b0 b1 b2 b3
  [wordByte0 word, wordByte1 word, wordByte2 word]

/-- The one byte of a 2-symbol tail (41 R183). -/
def dec2 (c : Config) (b0 b1 : Byte) : List Byte := [wordByte0 (dtab c 0 b0 ||| dtab c 1 b1)]

/-- The two bytes of a 3-symbol tail (41 R184). -/
def dec3 (c : Config) (b0 b1 b2 : Byte) : List Byte :=
  let word := dtab c 0 b0 ||| dtab c 1 b1 ||| dtab c 2 b2
  [wordByte0 word, wordByte1 word]

/-- The first symbol of a triplet (40 R143). -/
def symbol0 (a : Byte) : Byte := etab0 a

/-- The second symbol: the window over byte 0 and byte 1 (40 R143). -/
def symbol1 (a b : Byte) : Byte := etab1 ((a.setWidth 12 <<< 4) ||| (b.setWidth 12 >>> 4))

/-- The third symbol: the window over byte 1 and byte 2 (40 R143). -/
def symbol2 (b c : Byte) : Byte := etab1 ((b.setWidth 12 <<< 2) ||| (c.setWidth 12 >>> 6))

/-- The fourth symbol (40 R143). -/
def symbol3 (c : Byte) : Byte := etab1 (c.setWidth 12)

/-- The padding byte (00 R9). -/
def padByte : Byte := 0x3D#8

/-- The quartet of a full triplet (42 R213). -/
def enc3 (a b c : Byte) : List Byte := [symbol0 a, symbol1 a b, symbol2 b c, symbol3 c]

/-- The quartet of one trailing byte: the missing bytes count as zero (42 R215). -/
def enc1 (a : Byte) : List Byte := [symbol0 a, symbol1 a 0#8, padByte, padByte]

/-- The quartet of two trailing bytes (42 R216). -/
def enc2 (a b : Byte) : List Byte := [symbol0 a, symbol1 a b, symbol2 b 0#8, padByte]

/-- CR LF (42 R214). -/
def lineBreak : List Byte := [0x0D#8, 0x0A#8]

/-- The BYTE step is enabled (41 R161, R170). -/
def byteEnabled (s : State) : Bool := decodeRunning s && decide (s.si < s.slen)

/-- D.QUAD is enabled (41 R161, R175): the last condition is the single SPECIAL check. -/
def quadEnabled (s : State) : Bool :=
  s.cfg.fastPath && decodeRunning s && s.wn == 0#3 && decide (s.si + 4 ≤ s.slen)
    && !(quartetEntry s.cfg (srcByte s s.si) (srcByte s (s.si + 1)) (srcByte s (s.si + 2))
      (srcByte s (s.si + 3))).getLsbD 24

/-- The TAIL step is enabled (41 R161, R180): the source is exhausted. SI above SLEN, which no run reaches, is left to the
step's own assertion (60 R307; log entry 11). -/
def tailEnabled (s : State) : Bool := decodeRunning s && decide (s.slen ≤ s.si)

/-- A line break is due (42 R211, order 1). -/
def breakDue (s : State) : Bool := s.flags.wrap && s.line == 76#7 && decide (s.si < s.slen)

/-- LINE after a quartet (42 R213, R215, R216). -/
def lineAfterQuartet (s : State) : BitVec 7 := if s.flags.wrap then s.line + 4#7 else s.line

end Sys2Proof.Machine
end

