-- ==== Sys2Proof/Machine/DecodeFsm.lean ====
section
/-! DEFINITION. The decode state machine (41): the three arms of the BYTE step, the QUAD step, the four arms of the TAIL
step. A meaning called in a state where its step is not enabled answers the refusal notEnabled: the machine has no such
move, and step never makes it (log entry 21). -/

namespace Sys2Proof.Machine

/-- Push a symbol byte (41 R171). The slot is that of the old WN; the fourth symbol completes a quartet and empties the
window. A window count above 3 is the OverflowError of 60 R300, which no run reaches (log entry 12). -/
def pushSymbol (b : Byte) (s : State) : State :=
  if 3#3 < s.wn then raise .window s
  else
    let pushed := { s with w := s.w.store b s.wn.toNat, wn := s.wn + 1#3, si := s.si + 1 }
    if pushed.wn = 4#3 then
      emit (dec4 s.cfg pushed.w.w0 pushed.w.w1 pushed.w.w2 pushed.w.w3) id { pushed with wn := 0#3 }
    else pushed

/-- Consume one byte and nothing else (41 R172). -/
def skipByte (s : State) : State := { s with si := s.si + 1 }

/-- D.SYM (41 R171). -/
def execDSym (b : Byte) (s : State) : Host.Outcome State Fault Refusal :=
  if byteEnabled s && classOf s.cfg b == .sym then .next (pushSymbol b s) else .refused .notEnabled

/-- D.SKIP (41 R172). -/
def execDSkip (b : Byte) (s : State) : Host.Outcome State Fault Refusal :=
  if byteEnabled s && classOf s.cfg b == .skip then .next (skipByte s) else .refused .notEnabled

/-- D.ILL (41 R173): CorruptError unless SILENT, which drops the byte. -/
def execDIll (b : Byte) (s : State) : Host.Outcome State Fault Refusal :=
  if byteEnabled s && classOf s.cfg b == .ill then
    .next (if s.flags.silent then skipByte s else raise .corrupt s)
  else .refused .notEnabled

/-- D.QUAD (41 R175): four symbol bytes at SI, decoded without the window. -/
def execDQuad (s : State) : Host.Outcome State Fault Refusal :=
  if quadEnabled s then
    .next (emit (dec4 s.cfg (srcByte s s.si) (srcByte s (s.si + 1)) (srcByte s (s.si + 2)) (srcByte s (s.si + 3)))
      (fun t => { t with si := t.si + 4 }) s)
  else .refused .notEnabled

/-- D.TAIL0 (41 R181). -/
def execDTail0 (s : State) : Host.Outcome State Fault Refusal :=
  if tailEnabled s && s.wn == 0#3 then .next (finish s) else .refused .notEnabled

/-- D.TAIL1 (41 R182): TruncatedError unless SILENT, which drops the lone symbol. -/
def execDTail1 (s : State) : Host.Outcome State Fault Refusal :=
  if tailEnabled s && s.wn == 1#3 then
    .next (if s.flags.silent then finish { s with wn := 0#3 } else raise .truncated s)
  else .refused .notEnabled

/-- D.TAIL2 (41 R183): one byte; the discarded bits are not checked. -/
def execDTail2 (s : State) : Host.Outcome State Fault Refusal :=
  if tailEnabled s && s.wn == 2#3 then
    .next (emit (dec2 s.cfg s.w.w0 s.w.w1) finish { s with wn := 0#3 })
  else .refused .notEnabled

/-- D.TAIL3 (41 R184): two bytes; the discarded bits are not checked. -/
def execDTail3 (s : State) : Host.Outcome State Fault Refusal :=
  if tailEnabled s && s.wn == 3#3 then
    .next (emit (dec3 s.cfg s.w.w0 s.w.w1 s.w.w2) finish { s with wn := 0#3 })
  else .refused .notEnabled

/-- The TAIL step with any other window count (41 R185, 60 R309): an OverflowError, kept and dead. -/
def tailWindow (s : State) : State := raise .window s

end Sys2Proof.Machine
end

