-- ==== Sys2Proof/Machine/EncodePipeline.lean ====
section
/-! DEFINITION. The encode pipeline (42): E.BREAK, E.GROUP, E.TAIL2, E.TAIL1, E.FINISH, enabled in the order of 42 R211. As in
the decode FSM, a step that is not enabled is the refusal notEnabled. -/

namespace Sys2Proof.Machine

/-- Write a quartet, consume n source bytes, count the line (42 R213, R215, R216). -/
def emitQuartet (quartet : List Byte) (n : Nat) (s : State) : State :=
  emit quartet (fun t => { t with si := t.si + n, line := lineAfterQuartet t }) s

/-- E.BREAK (42 R214). -/
def execEBreak (s : State) : Host.Outcome State Fault Refusal :=
  if encodeRunning s && breakDue s then .next (emit lineBreak (fun t => { t with line := 0#7 }) s)
  else .refused .notEnabled

/-- E.GROUP (42 R213). -/
def execEGroup (s : State) : Host.Outcome State Fault Refusal :=
  if encodeRunning s && !breakDue s && decide (s.si + 3 ≤ s.slen) then
    .next (emitQuartet (enc3 (srcByte s s.si) (srcByte s (s.si + 1)) (srcByte s (s.si + 2))) 3 s)
  else .refused .notEnabled

/-- E.TAIL1 (42 R215). -/
def execETail1 (s : State) : Host.Outcome State Fault Refusal :=
  if encodeRunning s && !breakDue s && s.slen == s.si + 1 then .next (emitQuartet (enc1 (srcByte s s.si)) 1 s)
  else .refused .notEnabled

/-- E.TAIL2 (42 R216). -/
def execETail2 (s : State) : Host.Outcome State Fault Refusal :=
  if encodeRunning s && !breakDue s && s.slen == s.si + 2 then
    .next (emitQuartet (enc2 (srcByte s s.si) (srcByte s (s.si + 1))) 2 s)
  else .refused .notEnabled

/-- E.FINISH (42 R217). SI above SLEN, which no run reaches, is left to the step's own assertion (log entry 11). -/
def execEFinish (s : State) : Host.Outcome State Fault Refusal :=
  if encodeRunning s && decide (s.slen ≤ s.si) then .next (finish s) else .refused .notEnabled

end Sys2Proof.Machine
end

