-- ==== Sys2Proof/Machine/LengthCalc.lean ====
section
/-! DEFINITION. The length calculator's one step (43 R251). -/

namespace Sys2Proof.Machine

/-- L.ENCLEN (43 R251): RESULT and STATUS; no buffer, no size check, no error. -/
def execLEnclen (s : State) : Host.Outcome State Fault Refusal :=
  if s.status == .busy && s.opl == .enclen then
    .next { s with result := enclen s.slen s.flags.wrap, status := .done }
  else .refused .notEnabled

end Sys2Proof.Machine
end

