-- ==== Sys2Proof/Machine/PublicForms.lean ====
section
/-! DEFINITION. The public forms as expansions into host actions (44 R279, R280): an instruction of this kind puts its
expansion at the front of what the host does next (log entry 18). -/

namespace Sys2Proof.Machine

/-- The host actions of decode(source, silent) (44 R279). -/
def decodeExpansion (c : Config) (source : List Byte) (silent : Bool) : List HostAction :=
  [ .writeReg 2 source.length
  , .writeSrc 0 source
  , .writeReg 3 (deccap source.length)
  , .writeReg 1 (flagsWord c { silent := silent, wrap := false })
  , .writeReg 0 1
  , .wait
  , .collect ]

/-- The host actions of encode(source, wrap) (44 R280), TCAP by the ENCLEN command. -/
def encodeExpansion (c : Config) (source : List Byte) (wrap : Bool) : List HostAction :=
  [ .writeReg 2 source.length
  , .writeSrc 0 source
  , .writeReg 1 (flagsWord c { silent := false, wrap := wrap })
  , .writeReg 0 3
  , .wait
  , .sizeTarget
  , .writeReg 0 2
  , .wait
  , .collect ]

/-- Put an expansion at the front of what the host does next. It begins with host writes, so it is no move while BUSY (70
R350); a source longer than SLEN can say cannot be given to the block (10 R32). -/
def expand (source : List Byte) (actions : List HostAction) (s : State) : Host.Outcome State Fault Refusal :=
  if s.status = .busy then .refused .hostWriteWhileBusy
  else if 2 ^ s.cfg.lenW ≤ source.length then .refused .sourceTooLong
  else .next { s with hostIn := actions ++ s.hostIn }

/-- decode(source, silent) (44 R279). -/
def execPublicDecode (source : List Byte) (silent : Bool) (s : State) : Host.Outcome State Fault Refusal :=
  expand source (decodeExpansion s.cfg source silent) s

/-- encode(source, wrap) (44 R280). -/
def execPublicEncode (source : List Byte) (wrap : Bool) (s : State) : Host.Outcome State Fault Refusal :=
  expand source (encodeExpansion s.cfg source wrap) s

end Sys2Proof.Machine
end

