-- ==== Sys2Proof/Machine/Dispatch.lean ====
section
/-! DEFINITION. The one dispatch of an instruction to its meaning. -/

namespace Sys2Proof.Machine

def exec (i : Instr) (s : State) : Host.Outcome State Fault Refusal :=
  match i with
  | .dSym b => Sys2Proof.Machine.execDSym b s
  | .dSkip b => Sys2Proof.Machine.execDSkip b s
  | .dIll b => Sys2Proof.Machine.execDIll b s
  | .dQuad => Sys2Proof.Machine.execDQuad s
  | .dTail0 => Sys2Proof.Machine.execDTail0 s
  | .dTail1 => Sys2Proof.Machine.execDTail1 s
  | .dTail2 => Sys2Proof.Machine.execDTail2 s
  | .dTail3 => Sys2Proof.Machine.execDTail3 s
  | .eBreak => Sys2Proof.Machine.execEBreak s
  | .eGroup => Sys2Proof.Machine.execEGroup s
  | .eTail1 => Sys2Proof.Machine.execETail1 s
  | .eTail2 => Sys2Proof.Machine.execETail2 s
  | .eFinish => Sys2Proof.Machine.execEFinish s
  | .lEnclen => Sys2Proof.Machine.execLEnclen s
  | .cmdNop => Sys2Proof.Machine.execCmdNop s
  | .cmdDecode => Sys2Proof.Machine.execCmdDecode s
  | .cmdEncode => Sys2Proof.Machine.execCmdEncode s
  | .cmdEnclen => Sys2Proof.Machine.execCmdEnclen s
  | .publicDecode source silent => Sys2Proof.Machine.execPublicDecode source silent s
  | .publicEncode source wrap => Sys2Proof.Machine.execPublicEncode source wrap s

end Sys2Proof.Machine
end

