-- ==== Sys2Proof/WellFormed.lean ====
section
/-! DEFINITION. When an instruction is well formed, and when a parameter record meets the constraints of 00 R8. -/

namespace Sys2Proof

/-- The constraints of 00 R8 on the parameters. -/
def Config.wf (c : Config) : Bool :=
  decide (8 ≤ c.lenW)
    && c.ws.contains 0x20#8
    && c.ws.all (fun b => (Machine.symVal c b).isNone && b != 0x3D#8)
    && (c.comma == 62#6 || c.comma == 63#6)
    && c.silentBit != c.wrapBit

/-- An instruction is well formed under parameters c: a byte operand has the class its mnemonic names (30 R94); a public
form's source has a length that SLEN can hold (10 R32). -/
def Instr.wellFormed (c : Config) : Instr → Bool
  | .dSym b => Machine.classOf c b == .sym
  | .dSkip b => Machine.classOf c b == .skip
  | .dIll b => Machine.classOf c b == .ill
  | .publicDecode source _ => decide (source.length < 2 ^ c.lenW)
  | .publicEncode source _ => decide (source.length < 2 ^ c.lenW)
  | .dQuad => true
  | .dTail0 => true
  | .dTail1 => true
  | .dTail2 => true
  | .dTail3 => true
  | .eBreak => true
  | .eGroup => true
  | .eTail1 => true
  | .eTail2 => true
  | .eFinish => true
  | .lEnclen => true
  | .cmdNop => true
  | .cmdDecode => true
  | .cmdEncode => true
  | .cmdEnclen => true

end Sys2Proof
end

