-- ==== Sys2Proof/Decode.lean ====
section
/-! DEFINITION. The decoder of the two formats that select an instruction (30 R90: B, a source byte; C, a command code),
and after it the encoder. The steps of 30 R99 and the public forms have no bit pattern: the state, or the host, selects
them. -/

namespace Sys2Proof

/-- Format B (30 R91, R92, R94): the arm of the BYTE step that a source byte selects. -/
def decodeByte (c : Config) (b : Byte) : Instr :=
  match Machine.classOf c b with
  | .sym => .dSym b
  | .skip => .dSkip b
  | .ill => .dIll b

/-- Format C (30 R98): all four codes are defined. -/
def decodeCommand (op : BitVec 2) : Instr :=
  if op = 0#2 then .cmdNop
  else if op = 1#2 then .cmdDecode
  else if op = 2#2 then .cmdEncode
  else .cmdEnclen

/-- The instruction an encoded item selects. Every item of the two formats is defined (30 R92, R102). -/
def decodeCode (c : Config) : Code → Instr
  | .byte b => decodeByte c b
  | .cmd op => decodeCommand op

/-- Why a byte list holds no instruction. -/
inductive DecodeError where
  /-- The list is empty: the source is exhausted (41 R180). -/
  | noByte
deriving DecidableEq, Repr

/-- The decoder of a source byte stream: one byte is one instruction (30 R103); the rest of the stream is handed back. -/
def decode (c : Config) : List Byte → Except DecodeError (Instr × List Byte)
  | [] => .error .noByte
  | b :: rest => .ok (decodeByte c b, rest)

/-- The encoder: the encoded item of an instruction, none for one that no bit pattern selects (30 R99, R106). -/
def encode : Instr → Option Code
  | .dSym b => some (.byte b)
  | .dSkip b => some (.byte b)
  | .dIll b => some (.byte b)
  | .cmdNop => some (.cmd 0#2)
  | .cmdDecode => some (.cmd 1#2)
  | .cmdEncode => some (.cmd 2#2)
  | .cmdEnclen => some (.cmd 3#2)
  | .dQuad => none
  | .dTail0 => none
  | .dTail1 => none
  | .dTail2 => none
  | .dTail3 => none
  | .eBreak => none
  | .eGroup => none
  | .eTail1 => none
  | .eTail2 => none
  | .eFinish => none
  | .lEnclen => none
  | .publicDecode _ _ => none
  | .publicEncode _ _ => none

/-- The encoded item that a table word of nbits bits stands for. The table numbers the bits of both formats from 0, and in
whole bytes both are 8 bits wide, so the four words 0 to 3 of 8 bits stand for two rows each: the command codes of format C
and the illegal bytes 0x00 to 0x03 of format B. Here they are the command codes; an illegal byte 0x00 to 0x03 is the same
word at 16 bits or more (log entry 8). An instruction is 8 bits (30 R90): bits above bit 7 are no part of it. -/
def tableCode (nbits w : Nat) : Code :=
  if nbits < 8 ∨ (nbits = 8 ∧ w < 4) then .cmd (BitVec.ofNat 2 w) else .byte (BitVec.ofNat 8 w)

/-- The instruction the decoder reads from a table word, with the default parameters, for which the table is written (30
R108). -/
def decodeTableWord (nbits w : Nat) : Option Instr := some (decodeCode Config.default (tableCode nbits w))

end Sys2Proof
end

