-- ==== Sys2Proof/Machine/Host.lean ====
section
/-! DEFINITION. The host's accesses to registers and buffers (10 R30 to R37, 44 R278) and its reset (70 R340, R341). -/

namespace Sys2Proof.Machine

/-- The value of the register of that number as the host reads it (10 R30 to R37). RESULT while BUSY is not given here: a
free value takes its place (readReg). -/
def regValue (s : State) : Nat → Nat
  | 0 => 0
  | 1 => flagsWord s.cfg s.flags
  | 2 => s.slen
  | 3 => s.tcap
  | 4 => statusCode s.status
  | 5 => errorCode s.errcode
  | 6 => s.result
  | _ => 0

/-- Read a register. RESULT while BUSY is any value (10 R36, 93 U7). -/
def readReg (number : Nat) (s : State) : State :=
  if number = 6 ∧ s.status = .busy then
    { s with
      replies := .value (Config.freeResult s.draws % 2 ^ (s.cfg.lenW + 1)) :: s.replies
      draws := s.draws + 1 }
  else { s with replies := .value (regValue s number) :: s.replies }

/-- Write a register other than CMD while STATUS is not BUSY: FLAGS, SLEN and TCAP take what fits them (10 R31 to R33; log
entry 13); a write to STATUS, ERRCODE, RESULT or a reserved number is ignored (R34 to R37). CMD is an instruction
(decodeCommand), not stored. -/
def writeReg (number word : Nat) (s : State) : State :=
  match number with
  | 1 => { s with flags := flagsOfWord s.cfg word }
  | 2 => { s with slen := word % 2 ^ s.cfg.lenW }
  | 3 => { s with tcap := word % 2 ^ s.cfg.lenW }
  | _ => s

/-- A register whose writing the host must leave alone while BUSY: CMD, FLAGS, SLEN, TCAP (70 R350). -/
def guardedReg (number : Nat) : Bool := decide (number ≤ 3)

/-- TGT[i] as the host reads it: what the block or the host wrote, at DONE and below RESULT; any value otherwise (20 R64,
R65, 44 R278). -/
def targetByte (s : State) (i : Nat) : Byte :=
  if s.status = .done ∧ i < s.result then (readCell s.tgt i).getD (Config.freeTgt s.draws i)
  else Config.freeTgt s.draws i

/-- The host takes the result of a public form (44 R279): the error, or the slice TGT[0 .. RESULT-1]. No form collects where RESULT
exceeds TCAP; a host list can (after ENCLEN, or with TCAP lowered after DONE), and the slice then still has RESULT bytes,
those from TCAP on too: DESIGN CHOICE (log entry 14). -/
def collectResult (s : State) : State :=
  if s.status = .error then { s with replies := .failed s.errcode :: s.replies }
  else { s with replies := .bytes ((List.range s.result).map (targetByte s)) :: s.replies, draws := s.draws + 1 }

/-- One host action that is not an instruction. Writes that the host must not make while BUSY are refused (70 R350, 93 U3);
an access to a byte that does not exist is a fault, but for collect (log entry 14). -/
def hostAct (a : HostAction) (s : State) : Host.Outcome State Fault Refusal :=
  match a with
  | .writeSrc start bytes =>
    if s.status = .busy then .refused .hostWriteWhileBusy
    else if 2 ^ s.cfg.lenW < start + bytes.length then .fault .noSuchSource
    else .next { s with src := writeBytes s.src start bytes }
  | .writeTgt start bytes =>
    if s.status = .busy then .refused .hostWriteWhileBusy
    else if s.tcap < start + bytes.length then .fault .noSuchTarget
    else .next { s with tgt := writeBytes s.tgt start bytes }
  | .writeReg number word =>
    if s.status = .busy ∧ guardedReg number then .refused .hostWriteWhileBusy else .next (writeReg number word s)
  | .readReg number => .next (readReg number s)
  | .readTgt i =>
    if s.tcap ≤ i then .fault .noSuchTarget
    else .next { s with replies := .byte (targetByte s i) :: s.replies, draws := s.draws + 1 }
  | .reset => .next (hardReset s)
  | .sizeTarget =>
    if s.status = .busy then .refused .hostWriteWhileBusy else .next { s with tcap := s.result % 2 ^ s.cfg.lenW }
  | .collect => .next (collectResult s)
  | .run => .next s
  | .wait => .next s
  | .publicDecode _ _ => .next s
  | .publicEncode _ _ => .next s

end Sys2Proof.Machine
end

