-- ==== Sys2Proof/Machine/Select.lean ====
section
/-! DEFINITION. What moves next: the host's action at the front of hostIn, or the running engine's one enabled step (41
R161, 42 R211, 10 R27). -/

namespace Sys2Proof.Machine

/-- The next move, with the state it is made in (the host's list without the action that is being made). -/
inductive Move where
  /-- Nothing moves: no command is running and the host does nothing (60 R330). -/
  | idle (s : State)
  /-- An instruction is executed. -/
  | instr (i : Instr) (s : State)
  /-- The TAIL step finds a window count above 3 (41 R185). -/
  | window (s : State)
  /-- A host action that is no instruction. -/
  | host (a : HostAction) (s : State)
  /-- STATUS is BUSY and no engine is selected. -/
  | stuck
deriving DecidableEq, Repr

/-- The instruction at SI: the source byte, decoded (41 R170). -/
def fetch (s : State) : Instr := decodeByte s.cfg (srcByte s s.si)

/-- The decode engine's step (41 R161): the size check first; where D.QUAD and the BYTE step are both enabled, D.QUAD
(log entry 15). -/
def decodeMove (s : State) : Move :=
  if s.sized = false then .instr .cmdDecode s
  else if s.si < s.slen then (if quadEnabled s then .instr .dQuad s else .instr (fetch s) s)
  else if s.wn = 0#3 then .instr .dTail0 s
  else if s.wn = 1#3 then .instr .dTail1 s
  else if s.wn = 2#3 then .instr .dTail2 s
  else if s.wn = 3#3 then .instr .dTail3 s
  else .window s

/-- The encode engine's step (42 R211, in its order). -/
def encodeMove (s : State) : Move :=
  if s.sized = false then .instr .cmdEncode s
  else if breakDue s then .instr .eBreak s
  else if s.si + 3 ≤ s.slen then .instr .eGroup s
  else if s.slen = s.si + 2 then .instr .eTail2 s
  else if s.slen = s.si + 1 then .instr .eTail1 s
  else .instr .eFinish s

/-- The block's move: none unless BUSY; then the step of the engine OPL selects (10 R27). -/
def blockMove (s : State) : Move :=
  if s.status ≠ .busy then .idle s
  else match s.opl with
    | .nop => .stuck
    | .decode => decodeMove s
    | .encode => encodeMove s
    | .enclen => .instr .lEnclen s

/-- The host's move. A write to CMD while STATUS is not BUSY is an instruction (30 R98); bits above bit 1 of the word are
ignored (10 R30). While BUSY the host has no write to CMD, NOP among them: hostAct refuses it (70 R350, 93 U3; log entries 9,
17). -/
def hostMove (a : HostAction) (s : State) : Move :=
  match a with
  | .writeReg 0 word =>
    if s.status = .busy then .host a s else .instr (decodeCommand (BitVec.ofNat 2 word)) s
  | .publicDecode source silent => .instr (.publicDecode source silent) s
  | .publicEncode source wrap => .instr (.publicEncode source wrap) s
  | _ => .host a s

/-- Who moves next (00 R15): the block where the host lets it run or waits for it, and the host otherwise. A wait ends when
STATUS is not BUSY. -/
def nextMove (s : State) : Move :=
  match s.hostIn with
  | [] => blockMove s
  | a :: rest =>
    if a = .run then blockMove { s with hostIn := rest }
    else if (a = .wait ∨ a = .collect) ∧ s.status = .busy then blockMove s
    else if a = .wait then .idle { s with hostIn := rest }
    else hostMove a { s with hostIn := rest }

/-- s with an encoded item placed as the next instruction. A command code is what the host writes to CMD next, and no command
is running. A source byte is SRC[SI], the last byte of the source, and a DECODE past its size check is running that the host
lets take one step. -/
def placeCode (s : State) : Code → State
  | .cmd op =>
    { s with
      status := if s.status = .busy then .idle else s.status
      hostIn := .writeReg 0 op.toNat :: s.hostIn }
  | .byte b =>
    { s with
      status := .busy, opl := .decode, sized := true
      src := writeCell s.src s.si b, slen := s.si + 1
      hostIn := .run :: s.hostIn }

end Sys2Proof.Machine
end

