-- ==== Sys2Proof/Machine/Step.lean ====
section
/-! DEFINITION. One step of the machine, and the placing of a table word as its next instruction. -/

namespace Sys2Proof.Machine

/-- One step: the next move is made. -/
def step (s : State) : Host.Outcome State Fault Refusal :=
  match nextMove s with
  | .idle t => .next t
  | .instr i t => exec i t
  | .window t => .next (tailWindow t)
  | .host a t => hostAct a t
  | .stuck => .fault .noEngine

/-- s with the instruction of a table word placed where the next step takes it from (log entry 8). -/
def State.withFetchWord (s : State) (nbits w : Nat) : State := placeCode s (tableCode nbits w)

end Sys2Proof.Machine
end

