-- ==== Sys2Proof/Safety.lean ====
section
/-! DEFINITION. The terms in which claims are made: several steps, what an error leaves, the invariant of the machine, and
the functions the engines compute (41 R191, 42 R230), written from the spec's formulas and not from the machine's
operations. -/

namespace Sys2Proof.Machine

/-- k steps, stopping at the first fault or refusal. -/
def steps : Nat → State → Host.Outcome State Fault Refusal
  | 0, s => .next s
  | k + 1, s =>
    match step s with
    | .next t => steps k t
    | .fault r => .fault r
    | .refused r => .refused r

/-- What raising e in s leaves (60 R310, R311): ERRCODE and STATUS; OPL, FLAGS, SLEN, TCAP and SRC unchanged. No byte of TGT holds
a value, the model's form of R311's unspecified TGT (log entry 3). The parameters and the model's own runs, hostIn and replies
do not change. Nothing is said of RESULT, SI, TI, WN, LINE and W. -/
def ErrorEntry (s t : State) (e : ErrCode) : Prop :=
  t.status = .error ∧ t.errcode = e ∧ t.opl = s.opl ∧ t.flags = s.flags ∧ t.slen = s.slen ∧ t.tcap = s.tcap
    ∧ t.src = s.src ∧ t.cfg = s.cfg ∧ t.runs = s.runs ∧ t.hostIn = s.hostIn ∧ t.replies = s.replies
    ∧ ∀ a, readCell t.tgt a = none

/-- TGT of t is TGT of s with the given bytes written from index a on, and no other byte changed. -/
def TargetWritten (s t : State) (a : Nat) (bytes : List Byte) : Prop :=
  (∀ k, k < bytes.length → readCell t.tgt (a + k) = bytes[k]?)
    ∧ ∀ i, i < a ∨ a + bytes.length ≤ i → readCell t.tgt i = readCell s.tgt i

/-- TGT of t holds what TGT of s holds below n, and no value from n on: the model's form of 20 R64's unspecified bytes (log entry
3). -/
def TargetCutAt (s t : State) (n : Nat) : Prop :=
  ∀ i, readCell t.tgt i = if i < n then readCell s.tgt i else none

/-! ## The invariant -/

/-- Every register of LEN_W or LEN_W + 1 bits holds a number of that width (10 R20). -/
def WidthsFit (s : State) : Prop :=
  s.slen < 2 ^ s.cfg.lenW ∧ s.tcap < 2 ^ s.cfg.lenW ∧ s.si < 2 ^ s.cfg.lenW ∧ s.ti < 2 ^ s.cfg.lenW
    ∧ s.result < 2 ^ (s.cfg.lenW + 1)

/-- Where the decode engine stands (10 R24, R25, 41 R190): whole triplets written, one for each four symbols, the other
symbols in the window, and room for what is to come. -/
def DecodePlace (s : State) : Prop :=
  s.si ≤ s.slen ∧ deccap s.slen ≤ s.tcap ∧ s.ti % 3 = 0 ∧ 4 * (s.ti / 3) + s.wn.toNat ≤ s.si ∧ s.line = 0#7
    ∧ ∀ k, k < s.wn.toNat → classOf s.cfg (s.w.slot k) = .sym

/-- Where the encode engine stands (10 R24 to R26, 42 R232): one quartet for each three source bytes read, and under WRAP the
line breaks so far. A line is empty only at the very start or when source bytes follow. -/
def EncodePlace (s : State) : Prop :=
  s.si ≤ s.slen ∧ enclen s.slen s.flags.wrap ≤ s.tcap ∧ (s.si % 3 = 0 ∨ s.si = s.slen) ∧ s.wn = 0#3
    ∧ if s.flags.wrap then
        ∃ breaks, 4 * ceilDiv s.si 3 = 76 * breaks + s.line.toNat ∧ s.ti = 4 * ceilDiv s.si 3 + 2 * breaks
          ∧ s.line.toNat ≤ 76 ∧ (s.line = 0#7 → breaks = 0 ∨ s.si < s.slen)
      else s.ti = 4 * ceilDiv s.si 3 ∧ s.line = 0#7

/-- Where a running command stands: an engine is selected (10 R27); before its size check, and in ENCLEN, nothing has moved
(44 R271). -/
def CommandPlace (s : State) : Prop :=
  (s.opl = .decode ∧ s.sized = true ∧ DecodePlace s)
    ∨ (s.opl = .encode ∧ s.sized = true ∧ EncodePlace s)
    ∨ (s.opl ≠ .nop ∧ s.sized = false ∧ s.si = 0 ∧ s.ti = 0 ∧ s.wn = 0#3 ∧ s.line = 0#7)

/-- The invariant of the machine. -/
def StateInv (s : State) : Prop :=
  s.cfg.wf = true
    ∧ Memory.wf s.src ∧ Memory.wf s.tgt
    ∧ WidthsFit s
    ∧ (s.status = .error ↔ s.errcode ≠ .none)
    ∧ (s.status ≠ .error → s.wn.toNat ≤ 3 ∧ s.line.toNat ≤ 76 ∧ s.line.toNat % 4 = 0)
    ∧ (s.status = .busy → CommandPlace s)

/-- The error kinds that must never occur (60 R307 to R309). -/
def ErrCode.isOverflow : ErrCode → Bool
  | .sourceOverflow => true
  | .targetOverflow => true
  | .window => true
  | .none => false
  | .targetTooSmall => false
  | .corrupt => false
  | .truncated => false

/-! ## The decode function (41 R165, R191) -/

/-- The triplet of four symbol bytes by their values: the formulas of 41 R165. -/
def tripletOf (c : Config) (b0 b1 b2 b3 : Byte) : List Byte :=
  let v0 := (val c b0).setWidth 8
  let v1 := (val c b1).setWidth 8
  let v2 := (val c b2).setWidth 8
  let v3 := (val c b3).setWidth 8
  [ (v0 <<< 2) ||| (v1 >>> 4)
  , ((v1 &&& 15#8) <<< 4) ||| (v2 >>> 2)
  , ((v2 &&& 3#8) <<< 6) ||| v3 ]

/-- The output of a symbol string (41 R191, step 4): its whole quartets, then one byte for two symbols left, two for three.
The byte 0x41 stands for a missing symbol; its value is 0. -/
def decodeOutput (c : Config) : List Byte → List Byte
  | b0 :: b1 :: b2 :: b3 :: more => tripletOf c b0 b1 b2 b3 ++ decodeOutput c more
  | [b0, b1, b2] => (tripletOf c b0 b1 b2 0x41#8).take 2
  | [b0, b1] => (tripletOf c b0 b1 0x41#8 0x41#8).take 1
  | [_] => []
  | [] => []

/-- The symbol bytes of a source, in source order (41 R191, step 2). -/
def symbolsOf (c : Config) (source : List Byte) : List Byte := source.filter (fun b => classOf c b == .sym)

/-- Some byte of a source is illegal (41 R191, step 1). -/
def hasIllegal (c : Config) (source : List Byte) : Bool := source.any (fun b => classOf c b == .ill)

/-- The first n bytes of the source of a command. -/
def sourcePrefix (s : State) (n : Nat) : List Byte := (List.range n).map (srcByte s)

/-- The first n bytes of TGT, none where no value is held. -/
def targetPrefix (s : State) (n : Nat) : List (Option Byte) := (List.range n).map (readCell s.tgt)

/-- The symbols that wait in the window. -/
def windowSymbols (s : State) : List Byte := [s.w.w0, s.w.w1, s.w.w2, s.w.w3].take s.wn.toNat

/-- A running decode engine has done 41 R191 for the source bytes it has consumed: the symbols consumed are some whole
quartets and then the window's; TGT below TI is the output of the quartets; and no illegal byte was passed without SILENT. -/
def DecodeTracks (s : State) : Prop :=
  decodeRunning s = true →
    (∃ quartets, symbolsOf s.cfg (sourcePrefix s s.si) = quartets ++ windowSymbols s ∧ quartets.length % 4 = 0
        ∧ targetPrefix s s.ti = (decodeOutput s.cfg quartets).map some)
      ∧ (s.flags.silent = false → hasIllegal s.cfg (sourcePrefix s s.si) = false)

/-! ## The encode function (30 R97, 42 R230) -/

/-- Symbol j of the text of a source of n bytes (42 R230): triplet j/4, its symbol j mod 4 by the slices of 30 R97, a missing
byte as zero bits, and padding where a symbol has no source bit at all (42 R215, R216). -/
def textSymbol (byteAt : Nat → Byte) (n j : Nat) : Byte :=
  let k := j / 4
  let a := byteAt (3 * k)
  let b := if 3 * k + 1 < n then byteAt (3 * k + 1) else 0#8
  let c := if 3 * k + 2 < n then byteAt (3 * k + 2) else 0#8
  if j % 4 = 0 then alpha (a.extractLsb' 2 6)
  else if j % 4 = 1 then alpha (a.extractLsb' 0 2 ++ b.extractLsb' 4 4)
  else if j % 4 = 2 then (if 3 * k + 1 < n then alpha (b.extractLsb' 0 4 ++ c.extractLsb' 6 2) else 0x3D#8)
  else if 3 * k + 2 < n then alpha (c.extractLsb' 0 6) else 0x3D#8

/-- Where symbol j stands in TGT (42 R230). -/
def symbolPlace (wrap : Bool) (j : Nat) : Nat := if wrap then j + 2 * (j / 76) else j

/-- TGT holds the first m symbols of the text of s's source, each in its place, and under WRAP the first k line breaks (42
R230). -/
def HoldsText (s : State) (m k : Nat) : Prop :=
  (∀ j, j < m → readCell s.tgt (symbolPlace s.flags.wrap j) = some (textSymbol (srcByte s) s.slen j))
    ∧ (s.flags.wrap = true → ∀ i, 1 ≤ i → i ≤ k →
        readCell s.tgt (78 * i - 2) = some 0x0D#8 ∧ readCell s.tgt (78 * i - 1) = some 0x0A#8)

/-- A running encode engine has done 42 R230 for the source bytes it has consumed. TI tells how many line breaks are written:
TI less the symbols, halved. -/
def EncodeTracks (s : State) : Prop :=
  encodeRunning s = true → HoldsText s (4 * ceilDiv s.si 3) ((s.ti - 4 * ceilDiv s.si 3) / 2)

/-! ## How long a command runs (41 R194, 42 R233, 70 R356) -/

/-- The number of line breaks of an encoding (43 R250). -/
def breaksOf (n : Nat) (wrap : Bool) : Nat := if wrap then ceilDiv (ceilDiv n 3 * 4) 76 - 1 else 0

/-- The most steps a command takes from its start on (70 R356). -/
def stepBound (s : State) : Nat :=
  match s.opl with
  | .nop => 0
  | .decode => s.slen + 2
  | .encode => ceilDiv s.slen 3 + breaksOf s.slen s.flags.wrap + 2
  | .enclen => 1

end Sys2Proof.Machine
end

