-- ==== Sys2Proof/Certificates/Slice0/Obligations.lean ====
section
/-! DEFINITION. The statements for the provers. Each docstring names the rule of spec/ it formalises. A state is read as "any
state", also one that no run reaches, unless an invariant is among its hypotheses. -/

open Sys2Proof Sys2Proof.Machine

/-! ## Reset and the invariant -/

/-- After reset (10 R50, 70 R340): STATUS IDLE and every register the rule names at 0; the default parameters (00 R8). SRC and
TGT hold no value (the model's form of 'unspecified', log entries 2, 3). W, which the rule leaves unspecified, is not mentioned. -/
def Obligations.ResetLeavesSpecifiedValues : Prop :=
  State.reset.status = .idle ∧ State.reset.errcode = .none ∧ State.reset.result = 0
    ∧ State.reset.flags.silent = false ∧ State.reset.flags.wrap = false
    ∧ State.reset.slen = 0 ∧ State.reset.tcap = 0 ∧ State.reset.opl = .nop ∧ State.reset.wn = 0#3
    ∧ State.reset.si = 0 ∧ State.reset.ti = 0 ∧ State.reset.line = 0#7
    ∧ State.reset.src = [] ∧ State.reset.tgt = [] ∧ State.reset.cfg = Config.default

/-- The state after reset meets the invariant. -/
def Obligations.ResetMeetsInvariant : Prop := StateInv State.reset

/-- Every step keeps the invariant: register widths, the canonical memories, ERRCODE NONE but in ERROR (10 R35), WN at most 3
(10 R22), LINE at most 76 and a multiple of 4 (10 R26), SI at most SLEN and TI within the target while a command runs (10 R24,
R25, 41 R190, 42 R232). The canonical form of the memories and the field sized, which it also speaks of, are the model's (log
entries 2 to 4). -/
def Obligations.StepKeepsInvariant : Prop := ∀ s t, StateInv s → step s = .next t → StateInv t

/-- Every step keeps both buffers in canonical form, in any state at all. The form is the model's (log entries 2, 3). -/
def Obligations.StepKeepsMemoryCanonical : Prop :=
  ∀ s t, Memory.wf s.src → Memory.wf s.tgt → step s = .next t → Memory.wf t.src ∧ Memory.wf t.tgt

/-! ## Encodings and the ROM -/

/-- Words written out by hand: source bytes of every class (30 R92) and the four command codes (30 R98), 8 and 2 bits wide as
those formats are. That decodeTableWord takes a 2-bit word for a command, and a word of 16 bits, a width no format has (30
R90), for the source byte in its low 8 bits, is the model's choice of how table words are numbered (log entry 8). -/
def Obligations.SampleWordsDecode : Prop :=
  decodeTableWord 8 0x41 = some (.dSym 0x41) ∧ decodeTableWord 8 0x2B = some (.dSym 0x2B)
    ∧ decodeTableWord 8 0x2C = some (.dSym 0x2C) ∧ decodeTableWord 8 0x20 = some (.dSkip 0x20)
    ∧ decodeTableWord 8 0x3D = some (.dSkip 0x3D) ∧ decodeTableWord 8 0x2E = some (.dIll 0x2E)
    ∧ decodeTableWord 8 0xFF = some (.dIll 0xFF) ∧ decodeTableWord 16 0x0001 = some (.dIll 0x01)
    ∧ decodeTableWord 2 0b00 = some .cmdNop ∧ decodeTableWord 2 0b01 = some .cmdDecode
    ∧ decodeTableWord 2 0b10 = some .cmdEncode ∧ decodeTableWord 2 0b11 = some .cmdEnclen

/-- Decoding an encoded well-formed instruction gives it back, alone and at the head of a byte stream; every encoded item
decodes to a well-formed instruction that encodes to it (30 R90 to R92, R98, R103), for all parameters. -/
def Obligations.EncodeDecodeRoundTrip : Prop :=
  (∀ c i code, i.wellFormed c = true → encode i = some code → decodeCode c code = i)
    ∧ (∀ c i b rest, i.wellFormed c = true → encode i = some (.byte b) → decode c (b :: rest) = .ok (i, rest))
    ∧ ∀ c code, (decodeCode c code).wellFormed c = true ∧ encode (decodeCode c code) = some code

/-- The class and the value of every byte, row by row (30 R92), with the default parameters. The character codes and the value
of , are the spec's general knowledge (log entry 20). -/
def Obligations.ByteClassTable : Prop :=
  ∀ b : Byte,
    let c := Config.default
    let n := b.toNat
    (n < 0x09 → classOf c b = .ill) ∧ (n = 0x09 ∨ n = 0x0A → classOf c b = .skip)
      ∧ (n = 0x0B ∨ n = 0x0C → classOf c b = .ill) ∧ (n = 0x0D → classOf c b = .skip)
      ∧ (0x0E ≤ n ∧ n ≤ 0x1F → classOf c b = .ill) ∧ (n = 0x20 → classOf c b = .skip)
      ∧ (0x21 ≤ n ∧ n ≤ 0x2A → classOf c b = .ill) ∧ (n = 0x2B → classOf c b = .sym ∧ val c b = 62)
      ∧ (n = 0x2C → classOf c b = .sym ∧ val c b = 63) ∧ (n = 0x2D → classOf c b = .sym ∧ val c b = 62)
      ∧ (n = 0x2E → classOf c b = .ill) ∧ (n = 0x2F → classOf c b = .sym ∧ val c b = 63)
      ∧ (0x30 ≤ n ∧ n ≤ 0x39 → classOf c b = .sym ∧ (val c b).toNat = 52 + (n - 0x30))
      ∧ (0x3A ≤ n ∧ n ≤ 0x3C → classOf c b = .ill) ∧ (n = 0x3D → classOf c b = .skip)
      ∧ (0x3E ≤ n ∧ n ≤ 0x40 → classOf c b = .ill)
      ∧ (0x41 ≤ n ∧ n ≤ 0x5A → classOf c b = .sym ∧ (val c b).toNat = n - 0x41)
      ∧ (0x5B ≤ n ∧ n ≤ 0x5E → classOf c b = .ill) ∧ (n = 0x5F → classOf c b = .sym ∧ val c b = 63)
      ∧ (n = 0x60 → classOf c b = .ill)
      ∧ (0x61 ≤ n ∧ n ≤ 0x7A → classOf c b = .sym ∧ (val c b).toNat = 26 + (n - 0x61))
      ∧ (0x7B ≤ n → classOf c b = .ill)

/-- The invariants (a) to (f) of the decode tables (40 R135), for all parameters: an entry shows the byte's class, which is
thus the same in all four tables, and a marker has no value bits (a, b); a symbol's entry has bits only in its own six places
(c); four symbols OR to the 24-bit word of their values with SPECIAL clear (d); SPECIAL of the OR is set exactly if one of the
four is no symbol (e); DTAB3 is the plain value table (f). -/
def Obligations.RomTableInvariants : Prop :=
  (∀ c p b, entryClass (dtab c p b) = classOf c b
      ∧ (classOf c b = .skip → dtab c p b = 0x1000000#26) ∧ (classOf c b = .ill → dtab c p b = 0x3000000#26)
      ∧ (classOf c b = .sym → dtab c p b &&& ~~~(63#26 <<< (18 - 6 * p.val)) = 0#26))
    ∧ (∀ c b0 b1 b2 b3, classOf c b0 = .sym → classOf c b1 = .sym → classOf c b2 = .sym → classOf c b3 = .sym →
        (quartetEntry c b0 b1 b2 b3).setWidth 24 = val c b0 ++ val c b1 ++ val c b2 ++ val c b3)
    ∧ (∀ c b0 b1 b2 b3, (quartetEntry c b0 b1 b2 b3).getLsbD 24 = true ↔
        classOf c b0 ≠ .sym ∨ classOf c b1 ≠ .sym ∨ classOf c b2 ≠ .sym ∨ classOf c b3 ≠ .sym)
    ∧ ∀ c b, classOf c b = .sym → (dtab c 3 b).setWidth 6 = val c b

/-- The alphabet and the values are inverse (40 R131, R132): the value of ALPHA[v] is v; a symbol byte that is no alternate is
ALPHA of its value; the alternates - and _ have the values 62 and 63 and , has COMMA_VALUE. The character codes are the spec's
general knowledge (log entry 20). -/
def Obligations.AlphabetValueInverse : Prop :=
  (∀ c v, symVal c (alpha v) = some v)
    ∧ (∀ c b v, symVal c b = some v → b ≠ 0x2D#8 → b ≠ 0x5F#8 → b ≠ 0x2C#8 → alpha v = b)
    ∧ ∀ c, symVal c 0x2D#8 = some 62#6 ∧ symVal c 0x5F#8 = some 63#6 ∧ symVal c 0x2C#8 = some c.comma

/-- The construction of the decode tables in three passes gives the tables (40 R134), for all parameters 00 R8 allows. -/
def Obligations.RomConstructionMatches : Prop := ∀ c, c.wf = true → ∀ p b, dtabBuilt c p b = dtab c p b

/-- The symbols found by table lookup are ALPHA of the four slices of the triplet (30 R97, 40 R143); ETAB1 is periodic with
period 64 (40 R142); ETAB0 depends on the top 6 bits alone (40 R141). The slices are the spec's general knowledge (log entry
20). -/
def Obligations.EncodeLookupsGiveSlices : Prop :=
  (∀ a b c : Byte, enc3 a b c =
      [ alpha (a.extractLsb' 2 6), alpha (a.extractLsb' 0 2 ++ b.extractLsb' 4 4)
      , alpha (b.extractLsb' 0 4 ++ c.extractLsb' 6 2), alpha (c.extractLsb' 0 6) ])
    ∧ (∀ w : Window12, etab1 (w + 64#12) = etab1 w) ∧ ∀ b : Byte, etab0 b = etab0 (b &&& 0xFC#8)

/-- dec4 of four symbol bytes is the 24-bit word of their values cut into three bytes, by the formulas of 41 R165. The tails give
the first one or two bytes (41 R183, R184, by the spec's decision D18) of the quartet in which the byte 0x41 stands for each
missing symbol (41 R191, derived there). -/
def Obligations.QuartetDecodesByFormula : Prop :=
  (∀ c b0 b1 b2 b3, classOf c b0 = .sym → classOf c b1 = .sym → classOf c b2 = .sym → classOf c b3 = .sym →
      dec4 c b0 b1 b2 b3 = tripletOf c b0 b1 b2 b3)
    ∧ (∀ c b0 b1, classOf c b0 = .sym → classOf c b1 = .sym →
        dec2 c b0 b1 = (tripletOf c b0 b1 0x41#8 0x41#8).take 1)
    ∧ ∀ c b0 b1 b2, classOf c b0 = .sym → classOf c b1 = .sym → classOf c b2 = .sym →
        dec3 c b0 b1 b2 = (tripletOf c b0 b1 b2 0x41#8).take 2

/-- What is encoded decodes to itself, quartet by quartet, padding left aside (41 R194, 20 R66), for all parameters. The bit
layout is the spec's general knowledge (log entry 20). -/
def Obligations.TripletRoundTrip : Prop :=
  ∀ (c : Config) (x y z : Byte),
    dec4 c (symbol0 x) (symbol1 x y) (symbol2 y z) (symbol3 z) = [x, y, z]
      ∧ dec2 c (symbol0 x) (symbol1 x 0#8) = [x] ∧ dec3 c (symbol0 x) (symbol1 x y) (symbol2 y 0#8) = [x, y]

/-! ## Commands -/

/-- Command start (44 R271): a write of DECODE, ENCODE or ENCLEN while not BUSY latches OPL, sets STATUS to BUSY, and clears
ERRCODE, RESULT, SI, TI, WN and LINE; FLAGS, SLEN, TCAP, W, SRC and TGT keep theirs. Of
the model's own fields, sized becomes false (log entry 4) and runs goes up by one (log entry 2); the others keep theirs. -/
def Obligations.CommandStartClears : Prop :=
  ∀ s, s.status ≠ .busy →
    let started (op : Op) : State :=
      { s with opl := op, status := .busy, errcode := .none, result := 0, si := 0, ti := 0, wn := 0, line := 0,
               sized := false, runs := s.runs + 1 }
    exec .cmdDecode s = .next (started .decode) ∧ exec .cmdEncode s = .next (started .encode)
      ∧ exec .cmdEnclen s = .next (started .enclen)

/-- NOP changes nothing, in any STATUS (44 R272). -/
def Obligations.NopChangesNothing : Prop := ∀ s, exec .cmdNop s = .next s

/-- The host's write to CMD while STATUS is not BUSY is the command its two low bits say (10 R30, 30 R98): step runs it, with
the write taken off the host's list. -/
def Obligations.StepRunsCommandWrite : Prop :=
  ∀ s word rest, s.hostIn = .writeReg 0 word :: rest → s.status ≠ .busy →
    step s = exec (if word % 4 = 0 then .cmdNop else if word % 4 = 1 then .cmdDecode
      else if word % 4 = 2 then .cmdEncode else .cmdEnclen) { s with hostIn := rest }

/-- The DECODE size check is the first step of a running DECODE (44 R273): TCAP below ceil(SLEN/4)*3 raises TARGET_TOO_SMALL;
otherwise nothing changes but that the check has passed (the field sized is the model's, log entry 4). That TGT holds no value
after an error is the model's form of unspecified bytes (log entry 3). -/
def Obligations.DecodeSizeCheckFirst : Prop :=
  ∀ s, s.status = .busy → s.opl = .decode → s.sized = false → s.hostIn = [] →
    step s = exec .cmdDecode s
      ∧ (s.tcap < (s.slen + 3) / 4 * 3 → ∃ t, exec .cmdDecode s = .next t ∧ ErrorEntry s t .targetTooSmall)
      ∧ ((s.slen + 3) / 4 * 3 ≤ s.tcap → exec .cmdDecode s = .next { s with sized := true })

/-- The ENCODE size check is the first step of a running ENCODE (44 R274): TCAP below ENCLEN(SLEN, FLAGS.WRAP) raises
TARGET_TOO_SMALL; otherwise nothing changes but that the check has passed (log entry 4). That TGT holds no value after an
error is the model's form of unspecified bytes (log entry 3). -/
def Obligations.EncodeSizeCheckFirst : Prop :=
  ∀ s, s.status = .busy → s.opl = .encode → s.sized = false → s.hostIn = [] →
    step s = exec .cmdEncode s
      ∧ (s.tcap < enclen s.slen s.flags.wrap → ∃ t, exec .cmdEncode s = .next t ∧ ErrorEntry s t .targetTooSmall)
      ∧ (enclen s.slen s.flags.wrap ≤ s.tcap → exec .cmdEncode s = .next { s with sized := true })

/-- While BUSY the host has no move that writes SRC, TGT, FLAGS, SLEN, TCAP or CMD (70 R350, 93 U3; the refusal is the model's
form of it, log entry 9; that it takes in a write of NOP to CMD is log entry 17). -/
def Obligations.HostKeepsOffWhileBusy : Prop :=
  ∀ s a rest, s.status = .busy → s.hostIn = a :: rest →
    ((∃ start bytes, a = .writeSrc start bytes) ∨ (∃ start bytes, a = .writeTgt start bytes)
      ∨ (∃ n word, a = .writeReg n word ∧ n ≤ 3)
      ∨ a = .sizeTarget ∨ (∃ source silent, a = .publicDecode source silent)
      ∨ (∃ source wrap, a = .publicEncode source wrap)) →
    step s = .refused .hostWriteWhileBusy

/-! ## The decode state machine -/

/-- D.SYM (41 R171). With fewer than three symbols waiting, the byte goes to slot WN and nothing else changes but WN and SI.
With three waiting, the four symbols' triplet is written at TI, TI advances by 3, and the window is empty; the fourth byte is
in W[3]. -/
def Obligations.SymbolPushedOrTripletWritten : Prop :=
  ∀ b s, byteEnabled s = true → classOf s.cfg b = .sym →
    (s.wn.toNat < 3 → ∃ w', exec (.dSym b) s = .next { s with w := w', wn := s.wn + 1, si := s.si + 1 }
        ∧ w'.slot s.wn.toNat = b ∧ ∀ k, k < 4 → k ≠ s.wn.toNat → w'.slot k = s.w.slot k)
      ∧ (s.wn = 3#3 → s.ti + 3 ≤ s.tcap → ∃ t,
          exec (.dSym b) s = .next t
            ∧ t = { s with w := { s.w with w3 := b }, wn := 0, si := s.si + 1, ti := s.ti + 3, tgt := t.tgt }
            ∧ TargetWritten s t s.ti (dec4 s.cfg s.w.w0 s.w.w1 s.w.w2 b))

/-- D.SKIP consumes its byte and changes nothing else, whatever SILENT is (41 R172). -/
def Obligations.SkipByteOnlyAdvances : Prop :=
  ∀ b s, byteEnabled s = true → classOf s.cfg b = .skip → exec (.dSkip b) s = .next { s with si := s.si + 1 }

/-- D.ILL: with SILENT 0 it raises CorruptError; with SILENT 1 it consumes its byte and changes nothing else (41 R173, 60
R305). That TGT holds no value after an error is the model's form of unspecified bytes (log entry 3). -/
def Obligations.IllegalByteRaisesOrDrops : Prop :=
  ∀ b s, byteEnabled s = true → classOf s.cfg b = .ill →
    (s.flags.silent = false → ∃ t, exec (.dIll b) s = .next t ∧ ErrorEntry s t .corrupt)
      ∧ (s.flags.silent = true → exec (.dIll b) s = .next { s with si := s.si + 1 })

/-- D.QUAD is enabled exactly if the machine has it, a DECODE past its size check is running, the window is empty, four bytes
remain and all four are symbols (41 R175, 30 R99). -/
def Obligations.QuadEnabledExactly : Prop :=
  ∀ s, quadEnabled s = true ↔
    s.cfg.fastPath = true ∧ s.status = .busy ∧ s.opl = .decode ∧ s.sized = true ∧ s.wn = 0#3 ∧ s.si + 4 ≤ s.slen
      ∧ ∀ k, k < 4 → classOf s.cfg (srcByte s (s.si + k)) = .sym

/-- D.QUAD (41 R175): the triplet of the four bytes at SI is written at TI; SI advances by 4 and TI by 3; W and WN are not
touched. -/
def Obligations.QuadWritesTriplet : Prop :=
  ∀ s, quadEnabled s = true → s.ti + 3 ≤ s.tcap → ∃ t,
    exec .dQuad s = .next t ∧ t = { s with si := s.si + 4, ti := s.ti + 3, tgt := t.tgt }
      ∧ TargetWritten s t s.ti
          (dec4 s.cfg (srcByte s s.si) (srcByte s (s.si + 1)) (srcByte s (s.si + 2)) (srcByte s (s.si + 3)))

/-- The QUAD step is four BYTE steps, but for the slots of the then empty window (41 R176). -/
def Obligations.QuadIsFourByteSteps : Prop :=
  ∀ s, quadEnabled s = true → s.ti + 3 ≤ s.tcap → ∃ s1 s2 s3 s4,
    exec (fetch s) s = .next s1 ∧ exec (fetch s1) s1 = .next s2 ∧ exec (fetch s2) s2 = .next s3
      ∧ exec (fetch s3) s3 = .next s4 ∧ s4.wn = 0#3 ∧ exec .dQuad s = .next { s4 with w := s.w }

/-- D.TAIL0 (41 R181): RESULT takes TI and STATUS is DONE; TGT below RESULT is unchanged. That TGT holds no value from RESULT
on is the model's form of unspecified bytes (log entry 3). -/
def Obligations.TailWithoutSymbolEnds : Prop :=
  ∀ s, decodeRunning s = true → s.si = s.slen → s.wn = 0#3 → s.ti ≤ s.tcap → ∃ t,
    exec .dTail0 s = .next t ∧ t = { s with result := s.ti, status := .done, tgt := t.tgt } ∧ TargetCutAt s t s.ti

/-- D.TAIL1 (41 R182, 60 R306): with SILENT 0 it raises TruncatedError; with SILENT 1 the lone symbol is dropped and the
command is DONE with RESULT TI. That TGT holds no value after the error, and from RESULT on at the end, is the model's form of
unspecified bytes (log entry 3). -/
def Obligations.LoneSymbolRaisesOrDrops : Prop :=
  ∀ s, decodeRunning s = true → s.si = s.slen → s.wn = 1#3 →
    (s.flags.silent = false → ∃ t, exec .dTail1 s = .next t ∧ ErrorEntry s t .truncated)
      ∧ (s.flags.silent = true → s.ti ≤ s.tcap → ∃ t, exec .dTail1 s = .next t
          ∧ t = { s with wn := 0, result := s.ti, status := .done, tgt := t.tgt } ∧ TargetCutAt s t s.ti)

/-- D.TAIL2 (41 R183): one byte is written at TI; TI advances by 1, the window is empty, RESULT takes the new TI, STATUS is
DONE. The byte is (val(W[0]) << 2) | (val(W[1]) >> 4); the other bits of W[1] do not matter. That TGT holds no value from
RESULT on is the model's form of unspecified bytes (log entry 3). -/
def Obligations.TwoSymbolTailWritesByte : Prop :=
  ∀ s, decodeRunning s = true → s.si = s.slen → s.wn = 2#3 → s.ti + 1 ≤ s.tcap → ∃ t,
    exec .dTail2 s = .next t
      ∧ t = { s with ti := s.ti + 1, wn := 0, result := s.ti + 1, status := .done, tgt := t.tgt }
      ∧ (classOf s.cfg s.w.w0 = .sym → classOf s.cfg s.w.w1 = .sym → readCell t.tgt s.ti =
          some (((val s.cfg s.w.w0).setWidth 8 <<< 2) ||| ((val s.cfg s.w.w1).setWidth 8 >>> 4)))
      ∧ ∀ i, i ≠ s.ti → readCell t.tgt i = if i < s.ti then readCell s.tgt i else none

/-- D.TAIL3 (41 R184): two bytes are written at TI; TI advances by 2, the window is empty, RESULT takes the new TI, STATUS is
DONE. That TGT holds no value from RESULT on is the model's form of unspecified bytes (log entry 3). -/
def Obligations.ThreeSymbolTailWritesBytes : Prop :=
  ∀ s, decodeRunning s = true → s.si = s.slen → s.wn = 3#3 → s.ti + 2 ≤ s.tcap → ∃ t,
    exec .dTail3 s = .next t
      ∧ t = { s with ti := s.ti + 2, wn := 0, result := s.ti + 2, status := .done, tgt := t.tgt }
      ∧ (classOf s.cfg s.w.w0 = .sym → classOf s.cfg s.w.w1 = .sym → classOf s.cfg s.w.w2 = .sym →
          readCell t.tgt s.ti =
              some (((val s.cfg s.w.w0).setWidth 8 <<< 2) ||| ((val s.cfg s.w.w1).setWidth 8 >>> 4))
            ∧ readCell t.tgt (s.ti + 1) =
              some ((((val s.cfg s.w.w1).setWidth 8 &&& 15#8) <<< 4) ||| ((val s.cfg s.w.w2).setWidth 8 >>> 2)))
      ∧ ∀ i, i ≠ s.ti → i ≠ s.ti + 1 → readCell t.tgt i = if i < s.ti then readCell s.tgt i else none

/-- The index assertions of the TAIL step (41 R180, 60 R307, R308): each arm that would end in DONE raises SOURCE_OVERFLOW
where SI is above SLEN (that the step runs there is the model's choice, log entry 11), and the arms that write nothing raise
TARGET_OVERFLOW where TI is above TCAP. That TGT holds no value after an error is the model's form of unspecified bytes (log
entry 3). -/
def Obligations.TailAssertionsRaise : Prop :=
  ∀ s, decodeRunning s = true →
    (s.slen < s.si →
        (s.wn = 0#3 → ∃ t, exec .dTail0 s = .next t ∧ ErrorEntry s t .sourceOverflow)
          ∧ (s.wn = 1#3 → s.flags.silent = true → ∃ t, exec .dTail1 s = .next t ∧ ErrorEntry s t .sourceOverflow)
          ∧ (s.wn = 2#3 → s.ti + 1 ≤ s.tcap → ∃ t, exec .dTail2 s = .next t ∧ ErrorEntry s t .sourceOverflow)
          ∧ (s.wn = 3#3 → s.ti + 2 ≤ s.tcap → ∃ t, exec .dTail3 s = .next t ∧ ErrorEntry s t .sourceOverflow))
      ∧ (s.si = s.slen → s.tcap < s.ti →
          (s.wn = 0#3 → ∃ t, exec .dTail0 s = .next t ∧ ErrorEntry s t .targetOverflow)
            ∧ (s.wn = 1#3 → s.flags.silent = true → ∃ t, exec .dTail1 s = .next t ∧ ErrorEntry s t .targetOverflow))

/-- The TAIL step with a window count above 3 is the OverflowError WINDOW (41 R185, 60 R309); so is a push with such a count,
for which the spec has no slot (the model's choice, log entry 12). That the TAIL step also runs for SI above SLEN is the
model's choice (log entry 11). That TGT holds no value after an error is the model's form of unspecified bytes (log entry 3).
-/
def Obligations.WindowViolationRaises : Prop :=
  ∀ s, decodeRunning s = true → 3 < s.wn.toNat →
    (s.slen ≤ s.si → s.hostIn = [] → ∃ t, step s = .next t ∧ ErrorEntry s t .window)
      ∧ ∀ b, s.si < s.slen → classOf s.cfg b = .sym →
          ∃ t, exec (.dSym b) s = .next t ∧ ErrorEntry s t .window

/-! ## The encode pipeline -/

/-- E.GROUP (42 R213): the quartet of the three bytes at SI is written at TI, each symbol ALPHA of its slice; SI advances by 3,
TI by 4, and under WRAP LINE by 4. -/
def Obligations.GroupWritesQuartet : Prop :=
  ∀ s, encodeRunning s = true → breakDue s = false → s.si + 3 ≤ s.slen → s.ti + 4 ≤ s.tcap →
    let a := srcByte s s.si
    let b := srcByte s (s.si + 1)
    let c := srcByte s (s.si + 2)
    ∃ t, exec .eGroup s = .next t
      ∧ t = { s with si := s.si + 3, ti := s.ti + 4, tgt := t.tgt,
                     line := if s.flags.wrap then s.line + 4 else s.line }
      ∧ TargetWritten s t s.ti
          [ alpha (a.extractLsb' 2 6), alpha (a.extractLsb' 0 2 ++ b.extractLsb' 4 4)
          , alpha (b.extractLsb' 0 4 ++ c.extractLsb' 6 2), alpha (c.extractLsb' 0 6) ]

/-- E.BREAK (42 R214): enabled exactly under WRAP with LINE 76 and source left; CR LF is written at TI, TI advances by 2, LINE is
0, SI does not change. -/
def Obligations.BreakWritesCrLf : Prop :=
  (∀ s, breakDue s = true ↔ s.flags.wrap = true ∧ s.line = 76#7 ∧ s.si < s.slen)
    ∧ ∀ s, encodeRunning s = true → breakDue s = true → s.ti + 2 ≤ s.tcap → ∃ t,
        exec .eBreak s = .next t ∧ t = { s with ti := s.ti + 2, line := 0, tgt := t.tgt }
          ∧ TargetWritten s t s.ti [0x0D#8, 0x0A#8]

/-- E.TAIL1 (42 R215): two symbols, the second with its low 4 bits zero, and two padding bytes. -/
def Obligations.OneByteTailPadsTwice : Prop :=
  ∀ s, encodeRunning s = true → breakDue s = false → s.slen = s.si + 1 → s.ti + 4 ≤ s.tcap →
    let a := srcByte s s.si
    ∃ t, exec .eTail1 s = .next t
      ∧ t = { s with si := s.si + 1, ti := s.ti + 4, tgt := t.tgt,
                     line := if s.flags.wrap then s.line + 4 else s.line }
      ∧ TargetWritten s t s.ti [alpha (a.extractLsb' 2 6), alpha (a.extractLsb' 0 2 ++ 0#4), 0x3D#8, 0x3D#8]

/-- E.TAIL2 (42 R216): three symbols, the third with its low 2 bits zero, and one padding byte. -/
def Obligations.TwoByteTailPadsOnce : Prop :=
  ∀ s, encodeRunning s = true → breakDue s = false → s.slen = s.si + 2 → s.ti + 4 ≤ s.tcap →
    let a := srcByte s s.si
    let b := srcByte s (s.si + 1)
    ∃ t, exec .eTail2 s = .next t
      ∧ t = { s with si := s.si + 2, ti := s.ti + 4, tgt := t.tgt,
                     line := if s.flags.wrap then s.line + 4 else s.line }
      ∧ TargetWritten s t s.ti
          [ alpha (a.extractLsb' 2 6), alpha (a.extractLsb' 0 2 ++ b.extractLsb' 4 4)
          , alpha (b.extractLsb' 0 4 ++ 0#2), 0x3D#8 ]

/-- E.FINISH (42 R217, 60 R307, R308): the two index assertions (that the step runs for SI above SLEN is the model's choice,
log entry 11); otherwise RESULT takes TI and STATUS is DONE, and TGT below RESULT is unchanged. That TGT holds no value after
an error, and from RESULT on at the end, is the model's form of unspecified bytes (log entry 3). -/
def Obligations.FinishEndsEncode : Prop :=
  ∀ s, encodeRunning s = true →
    (s.si = s.slen → s.ti ≤ s.tcap → ∃ t, exec .eFinish s = .next t
        ∧ t = { s with result := s.ti, status := .done, tgt := t.tgt } ∧ TargetCutAt s t s.ti)
      ∧ (s.slen < s.si → ∃ t, exec .eFinish s = .next t ∧ ErrorEntry s t .sourceOverflow)
      ∧ (s.si = s.slen → s.tcap < s.ti → ∃ t, exec .eFinish s = .next t ∧ ErrorEntry s t .targetOverflow)

/-- A target byte that would fall at TCAP or above is the OverflowError "target overflow" (20 R63), in every step that writes
(the model's choice of the point where it is raised is log entry 10). So is that the tails run for SI above SLEN (log entry
11). That TGT holds no value after an error is the model's form of unspecified bytes (log entry 3). -/
def Obligations.TargetBoundRaises : Prop :=
  (∀ b s, byteEnabled s = true → classOf s.cfg b = .sym → s.wn = 3#3 → s.tcap < s.ti + 3 →
      ∃ t, exec (.dSym b) s = .next t ∧ ErrorEntry s t .targetOverflow)
    ∧ (∀ s, quadEnabled s = true → s.tcap < s.ti + 3 →
        ∃ t, exec .dQuad s = .next t ∧ ErrorEntry s t .targetOverflow)
    ∧ (∀ s, tailEnabled s = true → s.wn = 2#3 → s.tcap < s.ti + 1 →
        ∃ t, exec .dTail2 s = .next t ∧ ErrorEntry s t .targetOverflow)
    ∧ (∀ s, tailEnabled s = true → s.wn = 3#3 → s.tcap < s.ti + 2 →
        ∃ t, exec .dTail3 s = .next t ∧ ErrorEntry s t .targetOverflow)
    ∧ (∀ s, encodeRunning s = true → breakDue s = true → s.tcap < s.ti + 2 →
        ∃ t, exec .eBreak s = .next t ∧ ErrorEntry s t .targetOverflow)
    ∧ ∀ s, encodeRunning s = true → breakDue s = false → s.tcap < s.ti + 4 →
        (s.si + 3 ≤ s.slen → ∃ t, exec .eGroup s = .next t ∧ ErrorEntry s t .targetOverflow)
          ∧ (s.slen = s.si + 2 → ∃ t, exec .eTail2 s = .next t ∧ ErrorEntry s t .targetOverflow)
          ∧ (s.slen = s.si + 1 → ∃ t, exec .eTail1 s = .next t ∧ ErrorEntry s t .targetOverflow)

/-! ## The length calculator -/

/-- L.ENCLEN (43 R250, R251): RESULT takes the encoded length of SLEN under WRAP, by the formula, and STATUS is DONE; nothing else
changes, and SILENT, TCAP, SRC and TGT do not matter. -/
def Obligations.LengthCommandGivesFormula : Prop :=
  ∀ s, s.status = .busy → s.opl = .enclen →
    let symbols := (s.slen + 2) / 3 * 4
    let lines := (symbols + 75) / 76
    exec .lEnclen s = .next { s with status := .done, result :=
      if s.flags.wrap then symbols + max (lines - 1) 0 * 2 else symbols }

/-- No length wraps (43 R256): with LEN_W at least 8, ENCLEN fits LEN_W + 1 bits and DECCAP fits LEN_W bits. ENCLEN does not
decrease, is the same for 3k+1 to 3k+3, and is the same with and without WRAP exactly up to 57 bytes (43 R257). -/
def Obligations.LengthsFitAndGrow : Prop :=
  (∀ width n wrap, 8 ≤ width → n < 2 ^ width → enclen n wrap < 2 ^ (width + 1) ∧ deccap n < 2 ^ width)
    ∧ (∀ m n wrap, m ≤ n → enclen m wrap ≤ enclen n wrap)
    ∧ (∀ k wrap, enclen (3 * k + 1) wrap = enclen (3 * k + 3) wrap)
    ∧ ∀ n, enclen n false ≤ enclen n true ∧ (enclen n true = enclen n false ↔ n ≤ 57)

/-! ## Errors -/

/-- Whatever instruction ends a command in ERROR (60 R310) puts a kind in ERRCODE and leaves OPL, FLAGS, SLEN, TCAP and SRC
unchanged (60 R311). No byte of TGT holds a value then: R311 says that TGT is unspecified, and holding no value is the model's
form of it (log entry 3). The parameters and the model's own runs, hostIn and replies (log entries 2, 7) do not change. -/
def Obligations.ErrorEntryOverAllInstructions : Prop :=
  ∀ i s t, exec i s = .next t → s.status ≠ .error → t.status = .error →
    t.errcode ≠ .none ∧ ErrorEntry s t t.errcode

/-- The overflow assertions never fire (60 R307 to R309): from a state that meets the invariant no step produces one of their
kinds. -/
def Obligations.OverflowNeverRaised : Prop :=
  ∀ s t, StateInv s → step s = .next t → s.errcode.isOverflow = false → t.errcode.isOverflow = false

/-- With SILENT 1 a DECODE past its size check never ends in ERROR (60 R313): from a state that meets the invariant the engine's
step leaves STATUS at BUSY or DONE. -/
def Obligations.SilentDecodeNeverFails : Prop :=
  ∀ s t, StateInv s → decodeRunning s = true → s.flags.silent = true → s.hostIn = [] → step s = .next t →
    t.status = .busy ∨ t.status = .done

/-! ## The host -/

/-- The host reads a register by number (10 R30 to R37): CMD reads 0, FLAGS its two bits in their places, SLEN, TCAP, STATUS,
ERRCODE and RESULT their values, a reserved number 0. RESULT while BUSY is excepted: it is any value. Nothing of the block
changes (20 R68). For places of the FLAGS bits other than 0 and 1 see log entry 25. -/
def Obligations.RegisterReads : Prop :=
  ∀ s n rest, s.hostIn = .readReg n :: rest → n ≠ 6 ∨ s.status ≠ .busy →
    ∃ v, step s = .next { s with hostIn := rest, replies := .value v :: s.replies }
      ∧ (n = 0 → v = 0)
      ∧ (n = 1 → s.cfg.silentBit ≠ s.cfg.wrapBit → ∀ k, v.testBit k =
          ((s.flags.silent && k == s.cfg.silentBit) || (s.flags.wrap && k == s.cfg.wrapBit)))
      ∧ (n = 2 → v = s.slen) ∧ (n = 3 → v = s.tcap)
      ∧ (n = 4 → v = match s.status with | .idle => 0 | .busy => 1 | .done => 2 | .error => 3)
      ∧ (n = 5 → v = match s.errcode with
          | .none => 0 | .targetTooSmall => 1 | .corrupt => 2 | .truncated => 3
          | .sourceOverflow => 4 | .targetOverflow => 5 | .window => 6)
      ∧ (n = 6 → v = s.result) ∧ (7 ≤ n → v = 0)

/-- A read of RESULT while BUSY returns some value of its width and changes nothing of the block (10 R36, 93 U7; the
counter draws is the model's, log entry 5). -/
def Obligations.ResultReadWhileBusy : Prop :=
  ∀ s rest, s.hostIn = .readReg 6 :: rest → s.status = .busy →
    ∃ v, v < 2 ^ (s.cfg.lenW + 1)
      ∧ step s = .next { s with hostIn := rest, replies := .value v :: s.replies, draws := s.draws + 1 }

/-- The host writes a register by number (10 R31 to R37): FLAGS takes the bits at SILENT_BIT and WRAP_BIT; SLEN and TCAP take the
word, cut to LEN_W bits (the cut is the model's, log entry 13); a write to STATUS, ERRCODE, RESULT or a reserved number changes
nothing, also while BUSY. For places of the FLAGS bits other than 0 and 1 see log entry 25 (DEDUCED). A write to CMD, number 0,
is StepRunsCommandWrite. -/
def Obligations.RegisterWrites : Prop :=
  ∀ s n word rest, s.hostIn = .writeReg n word :: rest →
    (n = 1 → s.status ≠ .busy → step s = .next { s with hostIn := rest, flags :=
        { silent := word.testBit s.cfg.silentBit, wrap := word.testBit s.cfg.wrapBit } })
      ∧ (n = 2 → s.status ≠ .busy → step s = .next { s with hostIn := rest, slen := word % 2 ^ s.cfg.lenW })
      ∧ (n = 3 → s.status ≠ .busy → step s = .next { s with hostIn := rest, tcap := word % 2 ^ s.cfg.lenW })
      ∧ (4 ≤ n → step s = .next { s with hostIn := rest })

/-- The host writes and reads the buffers (44 R278): SRC and TGT take the bytes while not BUSY; a read of TGT at DONE below RESULT
returns the byte that is held (the counter draws is the model's, log entry 5). -/
def Obligations.BufferAccesses : Prop :=
  (∀ s start bytes rest, s.hostIn = .writeSrc start bytes :: rest → s.status ≠ .busy →
      start + bytes.length ≤ 2 ^ s.cfg.lenW → ∃ t, step s = .next t ∧ t = { s with hostIn := rest, src := t.src }
        ∧ (∀ k, k < bytes.length → readCell t.src (start + k) = bytes[k]?)
        ∧ ∀ i, i < start ∨ start + bytes.length ≤ i → readCell t.src i = readCell s.src i)
    ∧ (∀ s start bytes rest, s.hostIn = .writeTgt start bytes :: rest → s.status ≠ .busy →
        start + bytes.length ≤ s.tcap → ∃ t, step s = .next t ∧ t = { s with hostIn := rest, tgt := t.tgt }
          ∧ TargetWritten s t start bytes)
    ∧ ∀ s i rest v, s.hostIn = .readTgt i :: rest → s.status = .done → i < s.result → i < s.tcap →
        readCell s.tgt i = some v →
        step s = .next { s with hostIn := rest, replies := .byte v :: s.replies, draws := s.draws + 1 }

/-- The reset a host applies at any time (70 R340, R341): every register the rule names at its reset value; TGT holds no value;
SRC is unchanged if a command was running, and holds no value otherwise (log entries 3, 16). -/
def Obligations.HostResetAnyTime : Prop :=
  ∀ s rest, s.hostIn = .reset :: rest → ∃ t, step s = .next t
    ∧ t.status = .idle ∧ t.errcode = .none ∧ t.result = 0 ∧ t.flags.silent = false ∧ t.flags.wrap = false
    ∧ t.slen = 0 ∧ t.tcap = 0 ∧ t.opl = .nop ∧ t.wn = 0#3 ∧ t.si = 0 ∧ t.ti = 0 ∧ t.line = 0#7
    ∧ (∀ i, readCell t.tgt i = none) ∧ (s.status = .busy → t.src = s.src)
    ∧ (s.status ≠ .busy → ∀ i, readCell t.src i = none) ∧ t.cfg = s.cfg ∧ t.hostIn = rest

/-- The public forms expand to the host actions of 44 R279 and R280 at the front of what the host does next; nothing of the
block changes. Of the two actions that no other statement covers: sizeTarget sets TCAP to RESULT (44 R280), cut to LEN_W bits
(the cut is the model's, log entry 13); collect, once STATUS is not BUSY, answers the error of ERRCODE at ERROR, and otherwise
RESULT bytes, which at DONE are those TGT holds below RESULT (44 R279; nothing is said of one it does not hold, log entry 3;
that collect answers RESULT bytes also where TCAP is less is the model's choice, log entry 14). The host's list, its replies,
the action collect and the counter draws are the model's (log entries 5, 7, 18). -/
def Obligations.PublicFormsExpand : Prop :=
  (∀ s source, s.status ≠ .busy → source.length < 2 ^ s.cfg.lenW →
      (∀ silent, exec (.publicDecode source silent) s = .next { s with hostIn :=
          [ .writeReg 2 source.length, .writeSrc 0 source, .writeReg 3 ((source.length + 3) / 4 * 3)
          , .writeReg 1 (if silent then 2 ^ s.cfg.silentBit else 0), .writeReg 0 1, .wait, .collect ] ++ s.hostIn })
        ∧ ∀ wrap, exec (.publicEncode source wrap) s = .next { s with hostIn :=
          [ .writeReg 2 source.length, .writeSrc 0 source
          , .writeReg 1 (if wrap then 2 ^ s.cfg.wrapBit else 0), .writeReg 0 3, .wait, .sizeTarget
          , .writeReg 0 2, .wait, .collect ] ++ s.hostIn })
    ∧ (∀ s rest, s.hostIn = .sizeTarget :: rest → s.status ≠ .busy →
        step s = .next { s with hostIn := rest, tcap := s.result % 2 ^ s.cfg.lenW })
    ∧ ∀ s rest, s.hostIn = .collect :: rest →
        (s.status = .error → step s = .next { s with hostIn := rest, replies := .failed s.errcode :: s.replies })
          ∧ (s.status ≠ .error → s.status ≠ .busy → ∃ bs : List Byte, bs.length = s.result
              ∧ (s.status = .done → ∀ i v, i < s.result → readCell s.tgt i = some v → bs[i]? = some v)
              ∧ step s = .next { s with hostIn := rest, replies := .bytes bs :: s.replies, draws := s.draws + 1 })

/-! ## Steps -/

/-- A step runs the decoded instruction (41 R161, R170): while a DECODE past its size check has source bytes left and the host lets
it run, step is exec of the source byte at SI decoded, unless D.QUAD is enabled, and exec of D.QUAD if it is (the choice between
the two is the model's, log entry 15). -/
def Obligations.StepRunsSourceByte : Prop :=
  ∀ s, decodeRunning s = true → s.si < s.slen → s.hostIn = [] →
    (quadEnabled s = false → step s = exec (decodeByte s.cfg (srcByte s s.si)) s)
      ∧ (quadEnabled s = true → step s = exec .dQuad s)

/-- The other steps the state selects (30 R99, 41 R161, 42 R211, 43 R251). -/
def Obligations.StepRunsSelectedStep : Prop :=
  ∀ s, s.hostIn = [] →
    (decodeRunning s = true → s.si = s.slen →
        (s.wn = 0#3 → step s = exec .dTail0 s) ∧ (s.wn = 1#3 → step s = exec .dTail1 s)
          ∧ (s.wn = 2#3 → step s = exec .dTail2 s) ∧ (s.wn = 3#3 → step s = exec .dTail3 s))
      ∧ (encodeRunning s = true →
          (breakDue s = true → step s = exec .eBreak s)
            ∧ (breakDue s = false → s.si + 3 ≤ s.slen → step s = exec .eGroup s)
            ∧ (breakDue s = false → s.slen = s.si + 2 → step s = exec .eTail2 s)
            ∧ (breakDue s = false → s.slen = s.si + 1 → step s = exec .eTail1 s)
            ∧ (s.si = s.slen → step s = exec .eFinish s))
      ∧ (s.status = .busy → s.opl = .enclen → step s = exec .lEnclen s)

/-- Nothing moves while no command runs and the host does nothing (44 R277, 60 R330). -/
def Obligations.IdleBlockHolds : Prop := ∀ s, s.status ≠ .busy → s.hostIn = [] → step s = .next s

/-- The host's list says who moves (00 R15). Letting the block run is the block's step, with the action taken off; waiting or
collecting while BUSY is the block's step, with the list kept; a wait ends when STATUS is not BUSY. In these only the list differs
from a state whose list is empty. A public form at the head is exec of that form, with the action taken off. The list is the
model's (log entry 7). -/
def Obligations.HostListSchedules : Prop :=
  ∀ s rest,
    (s.hostIn = .run :: rest → ∀ t, step { s with hostIn := [] } = .next t → step s = .next { t with hostIn := rest })
      ∧ (s.hostIn = .wait :: rest → s.status = .busy → ∀ t, step { s with hostIn := [] } = .next t →
          step s = .next { t with hostIn := .wait :: rest })
      ∧ (s.hostIn = .collect :: rest → s.status = .busy → ∀ t, step { s with hostIn := [] } = .next t →
          step s = .next { t with hostIn := .collect :: rest })
      ∧ (s.hostIn = .wait :: rest → s.status ≠ .busy → step s = .next { s with hostIn := rest })
      ∧ (∀ source silent, s.hostIn = .publicDecode source silent :: rest →
          step s = exec (.publicDecode source silent) { s with hostIn := rest })
      ∧ ∀ source wrap, s.hostIn = .publicEncode source wrap :: rest →
          step s = exec (.publicEncode source wrap) { s with hostIn := rest }

/-- step never chooses a step that is not enabled, in any state (41 R161, 42 R211; the refusal notEnabled is the model's, log entry
21). -/
def Obligations.StepChoosesEnabled : Prop := ∀ s, step s ≠ .refused .notEnabled

/-- STATUS changes only as 10 R34 says, in any state: to BUSY from another value; from BUSY to DONE or ERROR; and to IDLE only by
the host's reset. -/
def Obligations.StatusTransitions : Prop :=
  ∀ s t, step s = .next t → t.status ≠ s.status →
    (s.status ≠ .busy ∧ t.status = .busy) ∨ (s.status = .busy ∧ (t.status = .done ∨ t.status = .error))
      ∨ (t.status = .idle ∧ ∃ rest, s.hostIn = .reset :: rest)

/-- No instruction changes SRC, FLAGS, SLEN, TCAP or the parameters (20 R73, 10 R31 to R33, R40), in any state. While a command
runs the bytes it reads are fixed, never-written ones too (93 U2): the run index, the model's own (log entry 2), does not change. -/
def Obligations.SourceNeverMutated : Prop :=
  ∀ i s t, exec i s = .next t →
    t.src = s.src ∧ t.flags = s.flags ∧ t.slen = s.slen ∧ t.tcap = s.tcap ∧ t.cfg = s.cfg
      ∧ (s.status = .busy → t.runs = s.runs ∧ ∀ k, srcByte t k = srcByte s k)

/-! ## What the engines compute -/

/-- Every step keeps the decode engine on 41 R191's function: from a state that meets the invariant, what DecodeTracks says of the
source bytes consumed so far still holds. -/
def Obligations.StepKeepsDecodeTracks : Prop :=
  ∀ s t, StateInv s → DecodeTracks s → step s = .next t → DecodeTracks t

/-- Every step keeps the encode engine on 42 R230's text: from a state that meets the invariant, what EncodeTracks says of the
source bytes consumed so far still holds. The bit layout is the spec's general knowledge (log entry 20). -/
def Obligations.StepKeepsEncodeTracks : Prop :=
  ∀ s t, StateInv s → EncodeTracks s → step s = .next t → EncodeTracks t

/-- A DECODE command computes the function of 41 R191, behind the size check of 44 R273, in at most SLEN + 2 steps after its
start (70 R356), from any state that meets the invariant: TARGET_TOO_SMALL; else CORRUPT if SILENT is 0 and a byte is illegal;
else TRUNCATED if SILENT is 0 and one symbol is left over; else DONE with RESULT the length of the output and the output in
TGT. SRC is unchanged. Source bytes that were never written are free (log entry 2). -/
def Obligations.DecodeComputesFunction : Prop :=
  ∀ s, StateInv s → s.status ≠ .busy → s.hostIn = [] →
    let source := sourcePrefix (commandStart .decode s) s.slen
    let symbols := symbolsOf s.cfg source
    ∃ k t, k ≤ s.slen + 2 ∧ steps k (commandStart .decode s) = .next t ∧ t.src = s.src
      ∧ if s.tcap < deccap s.slen then t.status = .error ∧ t.errcode = .targetTooSmall
        else if s.flags.silent = false ∧ hasIllegal s.cfg source = true then t.status = .error ∧ t.errcode = .corrupt
        else if s.flags.silent = false ∧ symbols.length % 4 = 1 then t.status = .error ∧ t.errcode = .truncated
        else t.status = .done ∧ t.errcode = .none ∧ t.result = (decodeOutput s.cfg symbols).length
          ∧ targetPrefix t t.result = (decodeOutput s.cfg symbols).map some

/-- An ENCODE command writes the text of 42 R230, behind the size check of 44 R274, in at most ceil(SLEN/3) + breaks + 2 steps
after its start (70 R356), from any state that meets the invariant; RESULT is ENCLEN(SLEN, FLAGS.WRAP) exactly (42 R232). SRC
is unchanged. The bit layout is the spec's general knowledge (log entry 20); source bytes that were never written are free
(log entry 2). -/
def Obligations.EncodeWritesText : Prop :=
  ∀ s, StateInv s → s.status ≠ .busy → s.hostIn = [] →
    ∃ k t, k ≤ ceilDiv s.slen 3 + breaksOf s.slen s.flags.wrap + 2 ∧ steps k (commandStart .encode s) = .next t
      ∧ t.src = s.src
      ∧ if s.tcap < enclen s.slen s.flags.wrap then t.status = .error ∧ t.errcode = .targetTooSmall
        else t.status = .done ∧ t.errcode = .none ∧ t.result = enclen s.slen s.flags.wrap
          ∧ HoldsText t (4 * ceilDiv s.slen 3) (breaksOf s.slen s.flags.wrap)

/-- Every command ends (00 R18, 70 R356): a running command, left to run from a state that meets the invariant, is over after at
most the number of steps 70 R356 gives. -/
def Obligations.CommandsEnd : Prop :=
  ∀ s, StateInv s → s.status = .busy → s.hostIn = [] →
    ∃ k t, k ≤ stepBound s ∧ steps k s = .next t ∧ (t.status = .done ∨ t.status = .error)
end

