-- ==== Sys2Proof/Laws/Memory.lean ====
section
/-! SUPPORT. The laws of a byte memory: a read after a write, and that every operation keeps the canonical form. -/

namespace Sys2Proof.Machine

@[simp] theorem readCell_nil (a : Nat) : readCell [] a = none := rfl

theorem readCell_writeCell_same (m : Memory) (a : Nat) (v : Byte) : readCell (writeCell m a v) a = some v := by
  induction m with
  | nil => simp [writeCell, readCell]
  | cons cell m ih =>
    obtain ⟨k, w⟩ := cell
    simp only [writeCell]
    split
    · simp [readCell]
    · split
      · simp [readCell]
      · rename_i _ h
        simp [readCell, h, ih]

theorem readCell_writeCell_other (m : Memory) (a i : Nat) (v : Byte) (h : i ≠ a) :
    readCell (writeCell m a v) i = readCell m i := by
  induction m with
  | nil => simp [writeCell, readCell, h]
  | cons cell m ih =>
    obtain ⟨k, w⟩ := cell
    simp only [writeCell]
    split
    · simp [readCell, h]
    · split
      · rename_i _ hk
        simp [readCell, h, ← hk]
      · simp [readCell, ih]

/-- A read outside the bytes written. -/
theorem readCell_writeBytes_outside (bytes : List Byte) (m : Memory) (a i : Nat)
    (h : i < a ∨ a + bytes.length ≤ i) : readCell (writeBytes m a bytes) i = readCell m i := by
  induction bytes generalizing m a with
  | nil => rfl
  | cons b bs ih =>
    simp only [List.length_cons] at h
    rw [writeBytes, ih _ _ (by omega), readCell_writeCell_other _ _ _ _ (by omega)]

/-- A read inside the bytes written. -/
theorem readCell_writeBytes_inside (bytes : List Byte) (m : Memory) (a k : Nat) (h : k < bytes.length) :
    readCell (writeBytes m a bytes) (a + k) = bytes[k]? := by
  induction bytes generalizing m a k with
  | nil => simp at h
  | cons b bs ih =>
    rw [writeBytes]
    cases k with
    | zero =>
      rw [readCell_writeBytes_outside _ _ _ _ (by omega)]
      simpa using readCell_writeCell_same m a b
    | succ k =>
      have := ih (writeCell m a b) (a + 1) k (by simpa using h)
      rw [show a + (k + 1) = a + 1 + k by omega, this]
      simp

theorem readCell_keepBelow (m : Memory) (n i : Nat) :
    readCell (keepBelow m n) i = if i < n then readCell m i else none := by
  induction m with
  | nil => simp [keepBelow, readCell]
  | cons cell m ih =>
    obtain ⟨k, w⟩ := cell
    unfold keepBelow at ih ⊢
    by_cases hk : k < n <;> by_cases hi : i = k <;> simp_all [readCell]

theorem writeCell_keys (m : Memory) (a : Nat) (v : Byte) (cell : Host.Cell) (h : cell ∈ writeCell m a v) :
    cell = (a, v) ∨ cell ∈ m := by
  induction m with
  | nil => simpa [writeCell] using h
  | cons head m ih =>
    obtain ⟨k, w⟩ := head
    simp only [writeCell] at h
    split at h
    · simpa using h
    · split at h
      · rcases List.mem_cons.1 h with rfl | h
        · exact .inl rfl
        · exact .inr (List.mem_cons_of_mem _ h)
      · rcases List.mem_cons.1 h with rfl | h
        · exact .inr (List.mem_cons_self ..)
        · exact (ih h).imp id (List.mem_cons_of_mem _)

/-- A write keeps the canonical form. -/
theorem writeCell_wf (m : Memory) (a : Nat) (v : Byte) (h : Memory.wf m) : Memory.wf (writeCell m a v) := by
  induction m with
  | nil => simp [writeCell, Memory.wf]
  | cons head m ih =>
    obtain ⟨k, w⟩ := head
    obtain ⟨hk, hm⟩ := List.pairwise_cons.1 h
    simp only [writeCell]
    split
    · rename_i hak
      refine List.pairwise_cons.2 ⟨fun cell hc => ?_, h⟩
      rcases List.mem_cons.1 hc with rfl | hc
      · exact hak
      · exact Nat.lt_trans hak (hk cell hc)
    · split
      · rename_i hak
        exact List.pairwise_cons.2 ⟨fun cell hc => hak ▸ hk cell hc, hm⟩
      · refine List.pairwise_cons.2 ⟨fun cell hc => ?_, ih hm⟩
        rcases writeCell_keys m a v cell hc with rfl | hc
        · show k < a
          omega
        · exact hk cell hc

theorem writeBytes_wf (bytes : List Byte) (m : Memory) (a : Nat) (h : Memory.wf m) :
    Memory.wf (writeBytes m a bytes) := by
  induction bytes generalizing m a with
  | nil => exact h
  | cons b bs ih => exact ih _ _ (writeCell_wf _ _ _ h)

theorem keepBelow_wf (m : Memory) (n : Nat) (h : Memory.wf m) : Memory.wf (keepBelow m n) :=
  h.sublist List.filter_sublist

theorem nil_wf : Memory.wf [] := List.Pairwise.nil

end Sys2Proof.Machine
end

