-- ==== Sys2Proof/Laws/State.lean ====
section
/-! SUPPORT. The fields of the named updates of a state, one lemma a field, so that no proof unfolds a record update. W after
raise and hardReset is left out: it is free. -/

namespace Sys2Proof.Machine

@[simp] theorem raise_cfg (e : ErrCode) (s : State) : (raise e s).cfg = s.cfg := rfl
@[simp] theorem raise_wn (e : ErrCode) (s : State) : (raise e s).wn = Config.freeWn s.draws := rfl
@[simp] theorem raise_si (e : ErrCode) (s : State) : (raise e s).si = Config.freeSi s.draws % 2 ^ s.cfg.lenW := rfl
@[simp] theorem raise_ti (e : ErrCode) (s : State) : (raise e s).ti = Config.freeTi s.draws % 2 ^ s.cfg.lenW := rfl
@[simp] theorem raise_line (e : ErrCode) (s : State) : (raise e s).line = Config.freeLine s.draws := rfl
@[simp] theorem raise_opl (e : ErrCode) (s : State) : (raise e s).opl = s.opl := rfl
@[simp] theorem raise_flags (e : ErrCode) (s : State) : (raise e s).flags = s.flags := rfl
@[simp] theorem raise_slen (e : ErrCode) (s : State) : (raise e s).slen = s.slen := rfl
@[simp] theorem raise_tcap (e : ErrCode) (s : State) : (raise e s).tcap = s.tcap := rfl
@[simp] theorem raise_status (e : ErrCode) (s : State) : (raise e s).status = .error := rfl
@[simp] theorem raise_errcode (e : ErrCode) (s : State) : (raise e s).errcode = e := rfl
@[simp] theorem raise_result (e : ErrCode) (s : State) : (raise e s).result = Config.freeResult s.draws % 2 ^ (s.cfg.lenW + 1) := rfl
@[simp] theorem raise_src (e : ErrCode) (s : State) : (raise e s).src = s.src := rfl
@[simp] theorem raise_tgt (e : ErrCode) (s : State) : (raise e s).tgt = [] := rfl
@[simp] theorem raise_sized (e : ErrCode) (s : State) : (raise e s).sized = s.sized := rfl
@[simp] theorem raise_runs (e : ErrCode) (s : State) : (raise e s).runs = s.runs := rfl
@[simp] theorem raise_draws (e : ErrCode) (s : State) : (raise e s).draws = s.draws + 1 := rfl
@[simp] theorem raise_hostIn (e : ErrCode) (s : State) : (raise e s).hostIn = s.hostIn := rfl
@[simp] theorem raise_replies (e : ErrCode) (s : State) : (raise e s).replies = s.replies := rfl

@[simp] theorem commandStart_cfg (op : Op) (s : State) : (commandStart op s).cfg = s.cfg := rfl
@[simp] theorem commandStart_w (op : Op) (s : State) : (commandStart op s).w = s.w := rfl
@[simp] theorem commandStart_wn (op : Op) (s : State) : (commandStart op s).wn = 0 := rfl
@[simp] theorem commandStart_si (op : Op) (s : State) : (commandStart op s).si = 0 := rfl
@[simp] theorem commandStart_ti (op : Op) (s : State) : (commandStart op s).ti = 0 := rfl
@[simp] theorem commandStart_line (op : Op) (s : State) : (commandStart op s).line = 0 := rfl
@[simp] theorem commandStart_opl (op : Op) (s : State) : (commandStart op s).opl = op := rfl
@[simp] theorem commandStart_flags (op : Op) (s : State) : (commandStart op s).flags = s.flags := rfl
@[simp] theorem commandStart_slen (op : Op) (s : State) : (commandStart op s).slen = s.slen := rfl
@[simp] theorem commandStart_tcap (op : Op) (s : State) : (commandStart op s).tcap = s.tcap := rfl
@[simp] theorem commandStart_status (op : Op) (s : State) : (commandStart op s).status = .busy := rfl
@[simp] theorem commandStart_errcode (op : Op) (s : State) : (commandStart op s).errcode = .none := rfl
@[simp] theorem commandStart_result (op : Op) (s : State) : (commandStart op s).result = 0 := rfl
@[simp] theorem commandStart_src (op : Op) (s : State) : (commandStart op s).src = s.src := rfl
@[simp] theorem commandStart_tgt (op : Op) (s : State) : (commandStart op s).tgt = s.tgt := rfl
@[simp] theorem commandStart_sized (op : Op) (s : State) : (commandStart op s).sized = false := rfl
@[simp] theorem commandStart_runs (op : Op) (s : State) : (commandStart op s).runs = s.runs + 1 := rfl
@[simp] theorem commandStart_draws (op : Op) (s : State) : (commandStart op s).draws = s.draws := rfl
@[simp] theorem commandStart_hostIn (op : Op) (s : State) : (commandStart op s).hostIn = s.hostIn := rfl
@[simp] theorem commandStart_replies (op : Op) (s : State) : (commandStart op s).replies = s.replies := rfl

@[simp] theorem hardReset_cfg (s : State) : (hardReset s).cfg = s.cfg := rfl
@[simp] theorem hardReset_wn (s : State) : (hardReset s).wn = 0 := rfl
@[simp] theorem hardReset_si (s : State) : (hardReset s).si = 0 := rfl
@[simp] theorem hardReset_ti (s : State) : (hardReset s).ti = 0 := rfl
@[simp] theorem hardReset_line (s : State) : (hardReset s).line = 0 := rfl
@[simp] theorem hardReset_opl (s : State) : (hardReset s).opl = .nop := rfl
@[simp] theorem hardReset_flags (s : State) : (hardReset s).flags = { silent := false, wrap := false } := rfl
@[simp] theorem hardReset_slen (s : State) : (hardReset s).slen = 0 := rfl
@[simp] theorem hardReset_tcap (s : State) : (hardReset s).tcap = 0 := rfl
@[simp] theorem hardReset_status (s : State) : (hardReset s).status = .idle := rfl
@[simp] theorem hardReset_errcode (s : State) : (hardReset s).errcode = .none := rfl
@[simp] theorem hardReset_result (s : State) : (hardReset s).result = 0 := rfl
@[simp] theorem hardReset_src (s : State) : (hardReset s).src = if s.status = .busy then s.src else [] := rfl
@[simp] theorem hardReset_tgt (s : State) : (hardReset s).tgt = [] := rfl
@[simp] theorem hardReset_sized (s : State) : (hardReset s).sized = false := rfl
@[simp] theorem hardReset_runs (s : State) : (hardReset s).runs = s.runs := rfl
@[simp] theorem hardReset_draws (s : State) : (hardReset s).draws = s.draws + 1 := rfl
@[simp] theorem hardReset_hostIn (s : State) : (hardReset s).hostIn = s.hostIn := rfl
@[simp] theorem hardReset_replies (s : State) : (hardReset s).replies = s.replies := rfl

@[simp] theorem skipByte_cfg (s : State) : (skipByte s).cfg = s.cfg := rfl
@[simp] theorem skipByte_w (s : State) : (skipByte s).w = s.w := rfl
@[simp] theorem skipByte_wn (s : State) : (skipByte s).wn = s.wn := rfl
@[simp] theorem skipByte_si (s : State) : (skipByte s).si = s.si + 1 := rfl
@[simp] theorem skipByte_ti (s : State) : (skipByte s).ti = s.ti := rfl
@[simp] theorem skipByte_line (s : State) : (skipByte s).line = s.line := rfl
@[simp] theorem skipByte_opl (s : State) : (skipByte s).opl = s.opl := rfl
@[simp] theorem skipByte_flags (s : State) : (skipByte s).flags = s.flags := rfl
@[simp] theorem skipByte_slen (s : State) : (skipByte s).slen = s.slen := rfl
@[simp] theorem skipByte_tcap (s : State) : (skipByte s).tcap = s.tcap := rfl
@[simp] theorem skipByte_status (s : State) : (skipByte s).status = s.status := rfl
@[simp] theorem skipByte_errcode (s : State) : (skipByte s).errcode = s.errcode := rfl
@[simp] theorem skipByte_result (s : State) : (skipByte s).result = s.result := rfl
@[simp] theorem skipByte_src (s : State) : (skipByte s).src = s.src := rfl
@[simp] theorem skipByte_tgt (s : State) : (skipByte s).tgt = s.tgt := rfl
@[simp] theorem skipByte_sized (s : State) : (skipByte s).sized = s.sized := rfl
@[simp] theorem skipByte_runs (s : State) : (skipByte s).runs = s.runs := rfl
@[simp] theorem skipByte_draws (s : State) : (skipByte s).draws = s.draws := rfl
@[simp] theorem skipByte_hostIn (s : State) : (skipByte s).hostIn = s.hostIn := rfl
@[simp] theorem skipByte_replies (s : State) : (skipByte s).replies = s.replies := rfl

end Sys2Proof.Machine
end

