-- ==== Sys2Proof/Laws/Ops.lean ====
section
/-! SUPPORT. What each shared operation can do, said once: a proof cites these and unfolds no operation. -/

namespace Sys2Proof.Machine

/-- A guarded meaning answers a next state exactly if its guard holds. -/
theorem guarded_next {g : Prop} [Decidable g] {t u : State} {r : Refusal} :
    (if g then (Host.Outcome.next t : Host.Outcome State Fault Refusal) else .refused r) = .next u ↔ g ∧ t = u := by
  split <;> simp_all

/-- The buffers after reset are in canonical form. -/
theorem reset_memory_wf : Memory.wf State.reset.src ∧ Memory.wf State.reset.tgt := ⟨nil_wf, nil_wf⟩

/-- raise leaves what ErrorEntry says. -/
theorem raise_errorEntry (e : ErrCode) (s : State) : ErrorEntry s (raise e s) e := by
  simp [ErrorEntry]

/-- Writing bytes that fit. -/
theorem emit_fits {bytes : List Byte} {goOn : State → State} {s : State} (h : s.ti + bytes.length ≤ s.tcap) :
    emit bytes goOn s = goOn { s with tgt := writeBytes s.tgt s.ti bytes, ti := s.ti + bytes.length } := by
  simp [emit, Nat.not_lt.2 h]

/-- Writing bytes that do not fit. -/
theorem emit_overflows {bytes : List Byte} {goOn : State → State} {s : State} (h : s.tcap < s.ti + bytes.length) :
    emit bytes goOn s = raise .targetOverflow s := by
  simp [emit, h]

/-- The end of a command: one of the two assertions, or DONE. -/
theorem finish_cases (s : State) :
    (s.slen < s.si ∧ finish s = raise .sourceOverflow s)
      ∨ (s.si ≤ s.slen ∧ s.tcap < s.ti ∧ finish s = raise .targetOverflow s)
      ∨ (s.si ≤ s.slen ∧ s.ti ≤ s.tcap
          ∧ finish s = { s with result := s.ti, status := .done, tgt := keepBelow s.tgt s.ti }) := by
  unfold finish
  split
  · exact .inl ⟨‹_›, rfl⟩
  · split
    · exact .inr (.inl ⟨by omega, ‹_›, rfl⟩)
    · exact .inr (.inr ⟨by omega, by omega, rfl⟩)

/-- The end of a command in bounds. -/
theorem finish_done {s : State} (hs : s.si ≤ s.slen) (ht : s.ti ≤ s.tcap) :
    finish s = { s with result := s.ti, status := .done, tgt := keepBelow s.tgt s.ti } := by
  rcases finish_cases s with ⟨h, _⟩ | ⟨_, h, _⟩ | ⟨_, _, h⟩
  · omega
  · omega
  · exact h

/-- The size check: it raises, or only passes. -/
theorem sizeCheck_cases (need : Nat) (s : State) :
    (s.tcap < need ∧ sizeCheck need s = raise .targetTooSmall s)
      ∨ (need ≤ s.tcap ∧ sizeCheck need s = { s with sized := true }) := by
  unfold sizeCheck
  split
  · exact .inl ⟨‹_›, rfl⟩
  · exact .inr ⟨by omega, rfl⟩

theorem decodeRunning_iff (s : State) :
    decodeRunning s = true ↔ s.status = .busy ∧ s.opl = .decode ∧ s.sized = true := by
  simp [decodeRunning, and_assoc]

theorem encodeRunning_iff (s : State) :
    encodeRunning s = true ↔ s.status = .busy ∧ s.opl = .encode ∧ s.sized = true := by
  simp [encodeRunning, and_assoc]

theorem byteEnabled_iff (s : State) : byteEnabled s = true ↔ decodeRunning s = true ∧ s.si < s.slen := by
  simp [byteEnabled]

theorem tailEnabled_iff (s : State) : tailEnabled s = true ↔ decodeRunning s = true ∧ s.slen ≤ s.si := by
  simp [tailEnabled]

theorem breakDue_iff (s : State) :
    breakDue s = true ↔ s.flags.wrap = true ∧ s.line = 76#7 ∧ s.si < s.slen := by
  simp [breakDue, and_assoc]

@[simp] theorem dec4_length (c : Config) (b0 b1 b2 b3 : Byte) : (dec4 c b0 b1 b2 b3).length = 3 := rfl
@[simp] theorem dec2_length (c : Config) (b0 b1 : Byte) : (dec2 c b0 b1).length = 1 := rfl
@[simp] theorem dec3_length (c : Config) (b0 b1 b2 : Byte) : (dec3 c b0 b1 b2).length = 2 := rfl
@[simp] theorem enc3_length (a b c : Byte) : (enc3 a b c).length = 4 := rfl
@[simp] theorem enc1_length (a : Byte) : (enc1 a).length = 4 := rfl
@[simp] theorem enc2_length (a b : Byte) : (enc2 a b).length = 4 := rfl
@[simp] theorem lineBreak_length : lineBreak.length = 2 := rfl

/-- A push with fewer than three symbols waiting. -/
theorem pushSymbol_waits {b : Byte} {s : State} (h : s.wn.toNat < 3) :
    pushSymbol b s = { s with w := s.w.store b s.wn.toNat, wn := s.wn + 1#3, si := s.si + 1 } := by
  have h1 : ¬ 3#3 < s.wn := by bv_omega
  have h2 : s.wn + 1#3 ≠ 4#3 := by bv_omega
  simp [pushSymbol, h1, h2]

/-- A push that completes a quartet and has room. -/
theorem pushSymbol_completes {b : Byte} {s : State} (h : s.wn = 3#3) (hr : s.ti + 3 ≤ s.tcap) :
    pushSymbol b s = { s with
      w := { s.w with w3 := b }, wn := 0#3, si := s.si + 1, ti := s.ti + 3
      tgt := writeBytes s.tgt s.ti (dec4 s.cfg s.w.w0 s.w.w1 s.w.w2 b) } := by
  simp [pushSymbol, h, Window.store, emit, Nat.not_lt.2 hr]

/-- A slot after a store: the byte stored, or what was there. -/
theorem store_slot (w : Window) (b : Byte) (n k : Nat) (hn : n < 4) (hk : k < 4) :
    (w.store b n).slot k = if k = n then b else w.slot k := by
  interval_cases n <;> interval_cases k <;> rfl

/-- A source byte depends on SRC and the run alone. -/
theorem srcByte_congr {s t : State} (h1 : t.src = s.src) (h2 : t.runs = s.runs) : srcByte t = srcByte s := by
  funext i
  simp [srcByte, h1, h2]

/-- What a step does: nothing, an instruction, the TAIL step's window assertion, or a host action. -/
theorem step_cases {s t : State} (h : step s = .next t) :
    nextMove s = .idle t
      ∨ (∃ i u, nextMove s = .instr i u ∧ exec i u = .next t)
      ∨ (∃ u, nextMove s = .window u ∧ t = raise .window u)
      ∨ ∃ a u, nextMove s = .host a u ∧ hostAct a u = .next t := by
  unfold step at h
  cases hm : nextMove s with
  | idle u => rw [hm] at h; cases h; exact .inl rfl
  | instr i u => rw [hm] at h; exact .inr (.inl ⟨i, u, rfl, h⟩)
  | window u => rw [hm] at h; cases h; exact .inr (.inr (.inl ⟨u, rfl, rfl⟩))
  | host a u => rw [hm] at h; exact .inr (.inr (.inr ⟨a, u, rfl, h⟩))
  | stuck => rw [hm] at h; cases h

/-- The block's move while no command runs. -/
theorem blockMove_idle {s : State} (h : s.status ≠ .busy) : blockMove s = .idle s := by simp [blockMove, h]

/-- The block's move of a running DECODE. -/
theorem blockMove_decode {s : State} (h : s.status = .busy) (ho : s.opl = .decode) : blockMove s = decodeMove s := by
  simp [blockMove, h, ho]

/-- The block's move of a running ENCODE. -/
theorem blockMove_encode {s : State} (h : s.status = .busy) (ho : s.opl = .encode) : blockMove s = encodeMove s := by
  simp [blockMove, h, ho]

/-- With nothing on the host's list the block moves. -/
theorem nextMove_alone {s : State} (h : s.hostIn = []) : nextMove s = blockMove s := by simp [nextMove, h]

/-- The host lets the block take one step: the action is taken off. -/
theorem nextMove_run {s : State} {rest : List HostAction} (h : s.hostIn = .run :: rest) :
    nextMove s = blockMove { s with hostIn := rest } := by simp [nextMove, h]

/-- While BUSY the host waits, or is about to collect: the block moves and the action stays. -/
theorem nextMove_waits {s : State} {a : HostAction} {rest : List HostAction} (h : s.hostIn = a :: rest)
    (ha : a = .wait ∨ a = .collect) (hb : s.status = .busy) : nextMove s = blockMove s := by
  rcases ha with rfl | rfl <;> simp [nextMove, h, hb]

/-- The move of an action that is made at once. -/
theorem nextMove_host {s : State} {a : HostAction} {rest : List HostAction} (h : s.hostIn = a :: rest) (h1 : a ≠ .run)
    (h2 : a ≠ .wait) (h3 : a = .collect → s.status ≠ .busy) : nextMove s = hostMove a { s with hostIn := rest } := by
  have : ¬ (a = .collect ∧ s.status = .busy) := fun ⟨x, y⟩ => h3 x y
  simp [nextMove, h, h1, h2, this]

/-- A write to CMD while STATUS is not BUSY is the instruction of its two low bits. -/
theorem hostMove_cmd {s : State} (word : Nat) (h : s.status ≠ .busy) :
    hostMove (.writeReg 0 word) s = .instr (decodeCommand (BitVec.ofNat 2 word)) s := by simp [hostMove, h]

/-- A write to CMD while BUSY is left to hostAct. -/
theorem hostMove_cmd_busy {s : State} (word : Nat) (h : s.status = .busy) :
    hostMove (.writeReg 0 word) s = .host (.writeReg 0 word) s := by simp [hostMove, h]

/-- A byte of TGT that is held below RESULT at DONE is what the host reads. -/
theorem targetByte_held {s : State} {i : Nat} {v : Byte} (hd : s.status = .done) (hi : i < s.result)
    (hv : readCell s.tgt i = some v) : targetByte s i = v := by simp [targetByte, hd, hi, hv]

/-- The host takes the error of a public form. -/
theorem collectResult_error {s : State} (h : s.status = .error) :
    collectResult s = { s with replies := .failed s.errcode :: s.replies } := by simp [collectResult, h]

/-- The host takes the bytes of a public form. -/
theorem collectResult_bytes {s : State} (h : s.status ≠ .error) :
    collectResult s = { s with
      replies := .bytes ((List.range s.result).map (targetByte s)) :: s.replies, draws := s.draws + 1 } := by
  simp [collectResult, h]

end Sys2Proof.Machine
end

