-- ==== Sys2Proof/Laws/PerInstr.lean ====
section
/-! SUPPORT. NoOverlap, the one statement made per instruction: no other well-formed instruction has the instruction's
encoding (30 R91, R98: each word has one meaning). -/

namespace Sys2Proof.Laws.NoOverlap

/-- A well-formed instruction with the same encoding as the well-formed i is i, under any parameters. -/
def Statement (i : Instr) : Prop :=
  ∀ c j code, i.wellFormed c = true → j.wellFormed c = true → encode i = some code → encode j = some code → j = i

/-- An instruction that no bit pattern selects meets the statement. -/
theorem of_none {i : Instr} (h : encode i = none) : Statement i := by
  intro c j code _ _ hi _
  rw [h] at hi
  cases hi

theorem dSym (b : Byte) : Statement (.dSym b) := by
  intro c j code hi hj ei ej
  cases j <;> simp_all [encode, Instr.wellFormed] <;> subst ei <;> simp_all

theorem dSkip (b : Byte) : Statement (.dSkip b) := by
  intro c j code hi hj ei ej
  cases j <;> simp_all [encode, Instr.wellFormed] <;> subst ei <;> simp_all

theorem dIll (b : Byte) : Statement (.dIll b) := by
  intro c j code hi hj ei ej
  cases j <;> simp_all [encode, Instr.wellFormed] <;> subst ei <;> simp_all

theorem dQuad : Statement .dQuad := of_none rfl
theorem dTail0 : Statement .dTail0 := of_none rfl
theorem dTail1 : Statement .dTail1 := of_none rfl
theorem dTail2 : Statement .dTail2 := of_none rfl
theorem dTail3 : Statement .dTail3 := of_none rfl
theorem eBreak : Statement .eBreak := of_none rfl
theorem eGroup : Statement .eGroup := of_none rfl
theorem eTail1 : Statement .eTail1 := of_none rfl
theorem eTail2 : Statement .eTail2 := of_none rfl
theorem eFinish : Statement .eFinish := of_none rfl
theorem lEnclen : Statement .lEnclen := of_none rfl

theorem cmdNop : Statement .cmdNop := by
  intro c j code _ _ ei ej
  cases j <;> simp_all [encode] <;> subst ei <;> simp_all

theorem cmdDecode : Statement .cmdDecode := by
  intro c j code _ _ ei ej
  cases j <;> simp_all [encode] <;> subst ei <;> simp_all

theorem cmdEncode : Statement .cmdEncode := by
  intro c j code _ _ ei ej
  cases j <;> simp_all [encode] <;> subst ei <;> simp_all

theorem cmdEnclen : Statement .cmdEnclen := by
  intro c j code _ _ ei ej
  cases j <;> simp_all [encode] <;> subst ei <;> simp_all

theorem publicDecode (source : List Byte) (silent : Bool) : Statement (.publicDecode source silent) := of_none rfl
theorem publicEncode (source : List Byte) (wrap : Bool) : Statement (.publicEncode source wrap) := of_none rfl

end Sys2Proof.Laws.NoOverlap
end

