-- ==== Sys2Proof/Tests/Slice0.lean ====
section
/-! SUPPORT. The model's own tests: ill-formed terms, words written out from the spec's encodings, single steps with results
from spec/95_test_vectors.md or worked out by hand from the rules, and a witness for every obligation that has hypotheses. -/

namespace Sys2Proof.Tests
open Machine

/-! ## Helpers -/

/-- The small state of the tests: a source in SRC from index 0 with SLEN its length, the given TCAP. -/
def loaded (source : List Byte) (tcap : Nat) : State :=
  { State.reset with src := writeBytes [] 0 source, slen := source.length, tcap := tcap }

/-- The same with a command running past its size check. -/
def running (op : Op) (source : List Byte) (tcap : Nat) : State :=
  { loaded source tcap with status := .busy, opl := op, sized := true }

/-- The outcome is a next state that meets p. -/
def nextIs (o : Host.Outcome State Fault Refusal) (p : State → Bool) : Bool :=
  match o with
  | .next t => p t
  | .fault _ => false
  | .refused _ => false

/-- The outcome is the refusal r. -/
def refusedIs (o : Host.Outcome State Fault Refusal) (r : Refusal) : Bool :=
  match o with
  | .next _ => false
  | .fault _ => false
  | .refused q => q == r

/-- The outcome is the fault f. -/
def faultIs (o : Host.Outcome State Fault Refusal) (f : Fault) : Bool :=
  match o with
  | .next _ => false
  | .fault q => q == f
  | .refused _ => false

/-- TGT as it is written from index a on. -/
def target (t : State) (a n : Nat) : List (Option Byte) := (List.range n).map (fun k => readCell t.tgt (a + k))

/-- The window "QUJ_" of 41 R171's example. -/
def windowQUJ : Window := { w0 := 0x51, w1 := 0x55, w2 := 0x4A, w3 := 0x5F }

def silentOnly : Flags := { silent := true, wrap := false }
def wrapOnly : Flags := { silent := false, wrap := true }

/-- A host list in front of a state. -/
def withHost (s : State) (l : List HostAction) : State := { s with hostIn := l }

/-! ## WellFormed refuses an ill-formed term for each of its checks -/

theorem test_wf_dSym_refuses_skip : (Instr.dSym 0x20).wellFormed Config.default = false := by decide
theorem test_wf_dSkip_refuses_symbol : (Instr.dSkip 0x41).wellFormed Config.default = false := by decide
theorem test_wf_dIll_refuses_padding : (Instr.dIll 0x3D).wellFormed Config.default = false := by decide
theorem test_wf_publicDecode_refuses_long :
    (Instr.publicDecode [0x41, 0x41] true).wellFormed { Config.default with lenW := 1 } = false := by decide
theorem test_wf_publicEncode_refuses_long :
    (Instr.publicEncode [0x41, 0x41] true).wellFormed { Config.default with lenW := 1 } = false := by decide
theorem test_wf_accepts : (Instr.publicEncode [0x41, 0x41] true).wellFormed Config.default = true := by decide

theorem test_cfg_accepts_default : Config.default.wf = true := by decide
theorem test_cfg_refuses_lenW : Config.wf { Config.default with lenW := 7 } = false := by decide
theorem test_cfg_refuses_no_space : Config.wf { Config.default with ws := [0x09] } = false := by decide
theorem test_cfg_refuses_symbol_as_ws : Config.wf { Config.default with ws := [0x20, 0x41] } = false := by decide
theorem test_cfg_refuses_padding_as_ws : Config.wf { Config.default with ws := [0x20, 0x3D] } = false := by decide
theorem test_cfg_refuses_comma : Config.wf { Config.default with comma := 61 } = false := by decide
theorem test_cfg_refuses_one_flag_bit : Config.wf { Config.default with wrapBit := 0 } = false := by decide

/-! ## Decoding, words written out from 30 R92 and R98 -/

/-- `Q`, `+`, `,`, `-`, `_`: 0x51, 0x2B, 0x2C, 0x2D, 0x5F. -/
theorem test_decode_dSym :
    [0b01010001, 0b00101011, 0b00101100, 0b00101101, 0b01011111].map (decodeTableWord 8) =
      [some (.dSym 0x51), some (.dSym 0x2B), some (.dSym 0x2C), some (.dSym 0x2D), some (.dSym 0x5F)] := by decide

/-- tab, LF, CR, space, `=`: all five. -/
theorem test_decode_dSkip :
    [0b00001001, 0b00001010, 0b00001101, 0b00100000, 0b00111101].map (decodeTableWord 8) =
      [some (.dSkip 0x09), some (.dSkip 0x0A), some (.dSkip 0x0D), some (.dSkip 0x20), some (.dSkip 0x3D)] := by decide

/-- `.`, DEL, 0x80, and NUL as a source byte (16 bits, log entry 8). -/
theorem test_decode_dIll :
    [decodeTableWord 8 0b00101110, decodeTableWord 8 0b01111111, decodeTableWord 8 0b10000000, decodeTableWord 16 0] =
      [some (.dIll 0x2E), some (.dIll 0x7F), some (.dIll 0x80), some (.dIll 0x00)] := by decide

theorem test_decode_commands :
    [0b00, 0b01, 0b10, 0b11].map (decodeTableWord 2) =
      [some .cmdNop, some .cmdDecode, some .cmdEncode, some .cmdEnclen] := by decide

theorem test_decode_command_byte : decodeTableWord 8 0b00000010 = some .cmdEncode := by decide

/-- One byte is one instruction; the rest of the stream is handed back (30 R103). -/
theorem test_decode_stream :
    decode Config.default [0x20, 0x51] = .ok (.dSkip 0x20, [0x51]) ∧ decode Config.default [] = .error .noByte := by decide

theorem test_encode_none : encode .dQuad = none ∧ encode (.publicDecode [] true) = none := by decide

/-! ## The ROM, vectors A1 to A49 of 95 section 2.1 -/

theorem test_rom_values :
    [0x41#8, 0x5A, 0x61, 0x7A, 0x30, 0x39, 0x2B, 0x2D, 0x2F, 0x5F, 0x2C].map (symVal Config.default) =
      [some 0, some 25, some 26, some 51, some 52, some 61, some 62, some 62, some 63, some 63, some 63] := by decide

theorem test_rom_illegal_neighbours :
    [0x0B#8, 0x0C, 0x00, 0x2E, 0x40, 0x5B, 0x60, 0x7B, 0x2A, 0x3A, 0x80, 0xFF].all
      (fun b => classOf Config.default b == .ill) = true := by decide

theorem test_rom_decode_tables :
    [dtab Config.default 0 0x51, dtab Config.default 1 0x51, dtab Config.default 2 0x51, dtab Config.default 3 0x51,
      dtab Config.default 0 0x2F, dtab Config.default 3 0x2C, dtab Config.default 2 0x3D, dtab Config.default 1 0x2A] =
    [0x0400000, 0x0010000, 0x0000400, 0x0000010, 0x0FC0000, 0x000003F, 0x1000000, 0x3000000] := by decide

theorem test_rom_or_of_four :
    [quartetEntry Config.default 0x54 0x57 0x46 0x75, quartetEntry Config.default 0x54 0x20 0x46 0x75,
      quartetEntry Config.default 0x51 0x51 0x2A 0x3D] = [0x04D616E, 0x14C016E, 0x3410000] := by decide

theorem test_rom_encode_tables :
    [etab0 0x03, etab0 0x04, etab0 0xFF, etab0 0x4D, etab1 0x4D6, etab1 0x185, etab1 0x06E, etab1 0xFC0, etab1 0x03F] =
    [0x41, 0x42, 0x2F, 0x54, 0x57, 0x46, 0x75, 0x41, 0x2F] := by decide

/-! ## Single steps -/

/-- 41 R171's example: the fourth symbol `D` completes `QUJD`, which is 0x41 0x42 0x43 (vector D12). -/
theorem test_dSym_completes :
    nextIs (exec (.dSym 0x44) { running .decode [0x44] 3 with w := windowQUJ, wn := 3 })
      (fun t => target t 0 4 == [some 0x41, some 0x42, some 0x43, none] && t.ti == 3 && t.wn == 0 && t.si == 1) := by
  decide

/-- The second symbol goes to slot 1, as the raw byte (41 R171). -/
theorem test_dSym_waits :
    nextIs (exec (.dSym 0x2D) { running .decode [0x2D] 3 with w := windowQUJ, wn := 1 })
      (fun t => t.w == { windowQUJ with w1 := 0x2D } && t.wn == 2 && t.si == 1 && t.tgt == []) := by decide

/-- 41 R172's example: the space of `" QQ=="` is consumed. -/
theorem test_dSkip :
    nextIs (exec (.dSkip 0x20) (running .decode [0x20, 0x51, 0x51, 0x3D, 0x3D] 6))
      (fun t => t.si == 1 && t.wn == 0 && t.status == .busy) := by decide

/-- A space inside a quartet does not split it (41 R172). -/
theorem test_dSkip_inside_quartet :
    nextIs (exec (.dSkip 0x3D) { running .decode [0x3D] 3 with w := windowQUJ, wn := 2 })
      (fun t => t.wn == 2 && t.w == windowQUJ && t.si == 1) := by decide

/-- CorruptError is code 2, and SILENT drops the byte (41 R173, 60 R301). -/
theorem test_dIll_raises :
    nextIs (exec (.dIll 0x00) (running .decode [0x00] 3))
      (fun t => t.status == .error && errorCode t.errcode == 2 && t.slen == 1 && t.tgt == []) := by decide

theorem test_dIll_silent :
    nextIs (exec (.dIll 0x00) { running .decode [0x00] 3 with flags := silentOnly })
      (fun t => t.status == .busy && t.si == 1) := by decide

/-- 41 R175's example `AAAA` (S2), and `TWFu` at SI 1 with TI 3 (vector A38). -/
theorem test_dQuad_zero :
    nextIs (exec .dQuad (running .decode [0x41, 0x41, 0x41, 0x41] 3))
      (fun t => target t 0 4 == [some 0, some 0, some 0, none] && t.si == 4 && t.ti == 3) := by decide

theorem test_dQuad_man :
    nextIs (exec .dQuad { running .decode [0x20, 0x54, 0x57, 0x46, 0x75] 6 with si := 1, ti := 3 })
      (fun t => target t 3 3 == [some 0x4D, some 0x61, some 0x6E] && t.si == 5 && t.ti == 6) := by decide

/-- A waiting symbol keeps the fast path out (41 R175), and so does a space among the four (vector A39). -/
theorem test_dQuad_not_enabled :
    quadEnabled { running .decode [0x41, 0x41, 0x41, 0x41] 3 with wn := 1 } = false
      ∧ quadEnabled (running .decode [0x54, 0x20, 0x46, 0x75] 3) = false := by decide

/-- 41 R181: the end after `AAAA`, RESULT 3; TGT beyond RESULT holds nothing (20 R64). -/
theorem test_dTail0 :
    nextIs (exec .dTail0 { running .decode [0x41, 0x41, 0x41, 0x41] 5 with
        si := 4, ti := 3, tgt := writeBytes [] 0 [0, 0, 0, 7] })
      (fun t => t.status == .done && t.result == 3 && target t 0 4 == [some 0, some 0, some 0, none]) := by decide

/-- Vector D20, `Q`: TRUNCATED is code 3; with SILENT, DONE with RESULT 0. -/
theorem test_dTail1_raises :
    nextIs (exec .dTail1 { running .decode [0x51] 3 with w := windowQUJ, wn := 1, si := 1 })
      (fun t => t.status == .error && errorCode t.errcode == 3) := by decide

theorem test_dTail1_silent :
    nextIs (exec .dTail1 { running .decode [0x51] 3 with w := windowQUJ, wn := 1, si := 1, flags := silentOnly })
      (fun t => t.status == .done && t.result == 0 && t.wn == 0 && t.tgt == []) := by decide

/-- Vectors D4 and D9, `QQ` and `QR==`: one byte 0x41, the discarded bits unchecked. -/
theorem test_dTail2 :
    nextIs (exec .dTail2 { running .decode [0x51, 0x51] 3 with w := { windowQUJ with w1 := 0x51 }, wn := 2, si := 2 })
      (fun t => t.status == .done && t.result == 1 && target t 0 2 == [some 0x41, none] && t.wn == 0) := by decide

theorem test_dTail2_bits_dropped :
    nextIs (exec .dTail2 { running .decode [0x51, 0x52] 3 with w := { windowQUJ with w1 := 0x52 }, wn := 2, si := 2 })
      (fun t => target t 0 2 == [some 0x41, none]) := by decide

/-- Vectors D15 and D27, `QUJ=` and `__8=`. -/
theorem test_dTail3 :
    nextIs (exec .dTail3 { running .decode [0x51, 0x55, 0x4A, 0x3D] 3 with w := windowQUJ, wn := 3, si := 4 })
      (fun t => t.status == .done && t.result == 2 && target t 0 3 == [some 0x41, some 0x42, none]) := by decide

theorem test_dTail3_url_safe :
    nextIs (exec .dTail3 { running .decode [0x5F, 0x5F, 0x38] 3 with
        w := { w0 := 0x5F, w1 := 0x5F, w2 := 0x38, w3 := 0 }, wn := 3, si := 3 })
      (fun t => target t 0 3 == [some 0xFF, some 0xFF, none]) := by decide

/-- 42 R214's example: TI 76, LINE 76, source left. -/
theorem test_eBreak :
    nextIs (exec .eBreak { running .encode [0, 0] 84 with flags := wrapOnly, si := 1, ti := 76, line := 76 })
      (fun t => target t 76 3 == [some 0x0D, some 0x0A, none] && t.ti == 78 && t.line == 0 && t.si == 1) := by decide

/-- No break after the final group (42 R214). -/
theorem test_eBreak_not_at_end :
    breakDue { running .encode [0] 84 with flags := wrapOnly, si := 1, ti := 76, line := 76 } = false := by decide

/-- 42 R213's example `Man`, `TWFu` (vector E17); all ones, `////`, under WRAP (vector E13). -/
theorem test_eGroup_man :
    nextIs (exec .eGroup (running .encode [0x4D, 0x61, 0x6E] 4))
      (fun t => target t 0 4 == [some 0x54, some 0x57, some 0x46, some 0x75] && t.si == 3 && t.ti == 4 && t.line == 0) := by
  decide

theorem test_eGroup_ones :
    nextIs (exec .eGroup { running .encode [0xFF, 0xFF, 0xFF] 4 with flags := wrapOnly })
      (fun t => target t 0 4 == [some 0x2F, some 0x2F, some 0x2F, some 0x2F] && t.line == 4) := by decide

/-- The source's own case S3, `/w==`; and `Zg==` (vector E2). -/
theorem test_eTail1_ff :
    nextIs (exec .eTail1 (running .encode [0xFF] 4))
      (fun t => target t 0 4 == [some 0x2F, some 0x77, some 0x3D, some 0x3D] && t.si == 1 && t.ti == 4) := by decide

theorem test_eTail1_f :
    nextIs (exec .eTail1 (running .encode [0x66] 4))
      (fun t => target t 0 4 == [some 0x5A, some 0x67, some 0x3D, some 0x3D]) := by decide

/-- 42 R216's example `TWE=`, and `//8=` under WRAP (vector E12). -/
theorem test_eTail2_ma :
    nextIs (exec .eTail2 (running .encode [0x4D, 0x61] 4))
      (fun t => target t 0 4 == [some 0x54, some 0x57, some 0x45, some 0x3D] && t.si == 2 && t.ti == 4) := by decide

theorem test_eTail2_ones :
    nextIs (exec .eTail2 { running .encode [0xFF, 0xFF] 4 with flags := wrapOnly })
      (fun t => target t 0 4 == [some 0x2F, some 0x2F, some 0x38, some 0x3D] && t.line == 4) := by decide

/-- The end of an empty ENCODE (vector E1), and the assertion on TI (60 R308, code 5). -/
theorem test_eFinish :
    nextIs (exec .eFinish (running .encode [] 0)) (fun t => t.status == .done && t.result == 0) := by decide

theorem test_eFinish_asserts :
    nextIs (exec .eFinish { running .encode [] 0 with ti := 1 })
      (fun t => t.status == .error && errorCode t.errcode == 5) := by decide

/-- 43 R251's example: SLEN 100 under WRAP, 138; and 136 without (vector E26). -/
theorem test_lEnclen_wrap :
    nextIs (exec .lEnclen { running .enclen [] 0 with sized := false, slen := 100, flags := wrapOnly })
      (fun t => t.status == .done && t.result == 138) := by decide

theorem test_lEnclen_plain :
    nextIs (exec .lEnclen { running .enclen [] 0 with sized := false, slen := 100 })
      (fun t => t.status == .done && t.result == 136) := by decide

/-- The value table of 43 R257. -/
theorem test_length_values :
    [0, 1, 2, 3, 4, 5, 56, 57, 58, 59, 60, 100, 113, 114, 115, 171, 172].map
        (fun n => (enclen n false, enclen n true, deccap n)) =
      [ (0, 0, 0), (4, 4, 3), (4, 4, 3), (4, 4, 3), (8, 8, 3), (8, 8, 6), (76, 76, 42), (76, 76, 45), (80, 82, 45)
      , (80, 82, 45), (80, 82, 45), (136, 138, 75), (152, 154, 87), (152, 154, 87), (156, 160, 87), (228, 232, 129)
      , (232, 238, 129) ] := by decide

theorem test_nop : nextIs (exec .cmdNop (running .decode [0x41] 3)) (fun t => t == running .decode [0x41] 3) := by decide

/-- 44 R271: the start of a DECODE after an ERROR. -/
theorem test_cmdDecode_starts :
    nextIs (exec .cmdDecode { loaded [0x41] 3 with status := .error, errcode := .corrupt, result := 9, si := 4, wn := 2 })
      (fun t => t.status == .busy && t.opl == .decode && t.errcode == .none && t.result == 0 && t.si == 0 && t.wn == 0
        && t.slen == 1 && t.tcap == 3) := by decide

/-- 44 R273's example: SLEN 5 with TCAP 6 passes and with TCAP 5 is TARGET_TOO_SMALL, code 1. -/
theorem test_cmdDecode_size_check :
    nextIs (exec .cmdDecode { running .decode [1, 2, 3, 4, 5] 6 with sized := false }) (fun t => t.status == .busy && t.sized)
      ∧ nextIs (exec .cmdDecode { running .decode [1, 2, 3, 4, 5] 5 with sized := false })
        (fun t => t.status == .error && errorCode t.errcode == 1) := by decide

/-- 44 R274's example: SLEN 100 under WRAP, TCAP 138 passes and 137 fails. -/
theorem test_cmdEncode_size_check :
    nextIs (exec .cmdEncode { running .encode [] 138 with sized := false, slen := 100, flags := wrapOnly })
        (fun t => t.status == .busy && t.sized)
      ∧ nextIs (exec .cmdEncode { running .encode [] 137 with sized := false, slen := 100, flags := wrapOnly })
        (fun t => t.status == .error && errorCode t.errcode == 1) := by decide

theorem test_cmdEncode_while_busy :
    refusedIs (exec .cmdEncode (running .decode [0x41] 3)) .hostWriteWhileBusy = true := by decide

theorem test_cmdEnclen_starts :
    nextIs (exec .cmdEnclen (loaded [] 0)) (fun t => t.status == .busy && opCode t.opl == 3) := by decide

/-- 44 R279's expansion for `Q*` with SILENT: SLEN 2, TCAP 3, FLAGS 1, CMD 1. -/
theorem test_publicDecode :
    nextIs (exec (.publicDecode [0x51, 0x2A] true) State.reset) (fun t => t.hostIn ==
      [.writeReg 2 2, .writeSrc 0 [0x51, 0x2A], .writeReg 3 3, .writeReg 1 1, .writeReg 0 1, .wait, .collect]) := by decide

/-- 44 R280's expansion for one byte with WRAP: SLEN 1, FLAGS 2, TCAP by the ENCLEN command, CMD 2. -/
theorem test_publicEncode :
    nextIs (exec (.publicEncode [0xFF] true) State.reset) (fun t => t.hostIn ==
      [.writeReg 2 1, .writeSrc 0 [0xFF], .writeReg 1 2, .writeReg 0 3, .wait, .sizeTarget, .writeReg 0 2, .wait,
        .collect]) := by decide

/-! ## The host -/

/-- 10 R31: SILENT is mask 1 and WRAP mask 2; other bits are ignored and read 0. -/
theorem test_flags_word :
    (flagsOfWord Config.default 6 = wrapOnly ∧ flagsWord Config.default wrapOnly = 2)
      ∧ flagsOfWord Config.default 13 = silentOnly ∧ flagsWord Config.default silentOnly = 1 := by decide

/-- A write to CMD through step: bits above bit 1 are ignored (10 R30), 0b101 is DECODE. -/
theorem test_step_writes_cmd :
    nextIs (step (withHost (loaded [0x41] 3) [.writeReg 0 5])) (fun t => t.opl == .decode && t.status == .busy
      && t.hostIn == []) := by decide

theorem test_host_faults :
    faultIs (hostAct (.writeTgt 2 [0, 0]) (loaded [] 3)) .noSuchTarget
      ∧ faultIs (hostAct (.readTgt 3) (loaded [] 3)) .noSuchTarget
      ∧ faultIs (hostAct (.writeSrc 255 [0, 0]) { loaded [] 3 with cfg := { Config.default with lenW := 8 } })
        .noSuchSource := by decide

/-- BUSY with no engine selected is stuck. -/
theorem test_stuck : faultIs (step (running .nop [] 0)) .noEngine = true := by decide

/-- The result of a public form: the slice below RESULT, or the error (44 R279). -/
theorem test_collect :
    nextIs (step (withHost { loaded [] 3 with status := .done, result := 2, tgt := writeBytes [] 0 [0x41, 0x42] } [.collect]))
        (fun t => t.replies == [.bytes [0x41, 0x42]])
      ∧ nextIs (step (withHost { loaded [] 3 with status := .error, errcode := .truncated } [.collect]))
        (fun t => t.replies == [.failed .truncated]) := by decide

/-- The target of a public encode gets RESULT bytes (44 R280); one past what LEN_W 8 holds is cut (log entry 13). -/
theorem test_sizeTarget :
    nextIs (step (withHost { loaded [] 0 with status := .done, result := 138 } [.sizeTarget])) (fun t => t.tcap == 138)
      ∧ nextIs (step (withHost { loaded [] 0 with cfg := { Config.default with lenW := 8 }, status := .done, result := 257 }
        [.sizeTarget])) (fun t => t.tcap == 1) := by decide

/-- A reset while BUSY keeps SRC and clears the registers (70 R341). -/
theorem test_reset_while_busy :
    nextIs (step (withHost (running .decode [0x41] 3) [.reset])) (fun t => t.status == .idle && t.slen == 0 && t.tcap == 0
      && t.opl == .nop && readCell t.src 0 == some 0x41 && t.tgt == []) := by decide

/-- A table word placed as the next instruction is what step runs: a symbol byte, and a command. -/
theorem test_withFetchWord :
    nextIs (step (State.reset.withFetchWord 8 0x51)) (fun t => t.w.w0 == 0x51 && t.wn == 1 && t.si == 1)
      ∧ nextIs (step (State.reset.withFetchWord 2 3)) (fun t => t.status == .busy && t.opl == .enclen) := by decide

/-! ## Witnesses: states and operands that meet the hypotheses of each obligation

One theorem for each obligation that has hypotheses; every clause with its own state, at a boundary value of its range. -/

/-- A DECODE in the middle: one quartet written, two symbols waiting, one byte left. -/
def midDecode : State :=
  { running .decode [0x51, 0x55, 0x4A, 0x44, 0x51, 0x51, 0x3D] 6 with
    si := 6, ti := 3, wn := 2, w := { windowQUJ with w1 := 0x51 }, tgt := writeBytes [] 0 [0x41, 0x42, 0x43] }

theorem midDecode_inv : StateInv midDecode := by
  unfold StateInv WidthsFit
  refine ⟨by decide, by decide, by decide, by decide, by decide, by decide, fun _ => .inl ⟨rfl, rfl, ?_⟩⟩
  unfold DecodePlace
  decide

/-- An ENCODE in the middle: one quartet written under WRAP, one byte left. -/
def midEncode : State :=
  { running .encode [0x4D, 0x61, 0x6E, 0xFF] 8 with
    flags := wrapOnly, si := 3, ti := 4, line := 4, tgt := writeBytes [] 0 [0x54, 0x57, 0x46, 0x75] }

theorem midEncode_inv : StateInv midEncode := by
  unfold StateInv WidthsFit
  refine ⟨by decide, by decide, by decide, by decide, by decide, by decide, fun _ => .inr (.inl ⟨rfl, rfl, ?_⟩)⟩
  exact ⟨by decide, by decide, by decide, by decide, 0, by decide⟩

theorem reset_inv : StateInv State.reset := by
  unfold StateInv WidthsFit
  exact ⟨by decide, by decide, by decide, by decide, by decide, by decide, fun h => by cases h⟩

theorem witness_StepKeepsInvariant :
    (StateInv midDecode ∧ ∃ t, step midDecode = .next t) ∧ (StateInv midEncode ∧ ∃ t, step midEncode = .next t) :=
  ⟨⟨midDecode_inv, _, rfl⟩, midEncode_inv, _, rfl⟩

theorem witness_StepKeepsMemoryCanonical :
    (Memory.wf midDecode.src ∧ Memory.wf midDecode.tgt) ∧ ∃ t, step midDecode = .next t :=
  ⟨by decide, _, rfl⟩

theorem witness_EncodeDecodeRoundTrip :
    ((Instr.dSym 0x41).wellFormed Config.default = true ∧ encode (.dSym 0x41) = some (.byte 0x41))
      ∧ (Instr.cmdEnclen.wellFormed Config.default = true ∧ encode .cmdEnclen = some (.cmd 3)) := by decide

/-- The boundary bytes of every row of 30 R92, with the class of each. -/
theorem witness_ByteClassTable :
    [0x08, 0x09, 0x0A, 0x0B, 0x0C, 0x0D, 0x0E, 0x1F, 0x20, 0x21, 0x2A, 0x2B, 0x2C, 0x2D, 0x2E, 0x2F, 0x30, 0x39, 0x3A, 0x3C,
        0x3D, 0x3E, 0x40, 0x41, 0x5A, 0x5B, 0x5E, 0x5F, 0x60, 0x61, 0x7A, 0x7B, 0xFF].map (classOf Config.default) =
      [.ill, .skip, .skip, .ill, .ill, .skip, .ill, .ill, .skip, .ill, .ill, .sym, .sym, .sym, .ill, .sym, .sym, .sym, .ill,
        .ill, .skip, .ill, .ill, .sym, .sym, .ill, .ill, .sym, .ill, .sym, .sym, .ill, .ill] := by decide

theorem witness_RomTableInvariants :
    classOf Config.default 0x20 = .skip ∧ classOf Config.default 0x2E = .ill
      ∧ classOf Config.default 0x51 = .sym ∧ classOf Config.default 0x2C = .sym := by decide

theorem witness_AlphabetValueInverse :
    symVal Config.default 0x2F = some 63 ∧ (0x2F#8 ≠ 0x2D ∧ 0x2F#8 ≠ 0x5F ∧ 0x2F#8 ≠ 0x2C) := by decide

theorem witness_RomConstructionMatches : Config.default.wf = true := by decide

theorem witness_QuartetDecodesByFormula :
    classOf Config.default 0x51 = .sym ∧ classOf Config.default 0x55 = .sym ∧ classOf Config.default 0x4A = .sym
      ∧ classOf Config.default 0x5F = .sym := by decide

theorem witness_CommandStartClears : (loaded [0x41] 3).status ≠ .busy := by decide

/-- A start in IDLE, and a NOP (a word whose two low bits are 0). -/
theorem witness_StepRunsCommandWrite :
    ((withHost (loaded [] 0) [.writeReg 0 1, .wait]).hostIn = .writeReg 0 1 :: [.wait] ∧ (loaded [] 0).status ≠ .busy)
      ∧ ((withHost (loaded [] 0) [.writeReg 0 4]).hostIn = .writeReg 0 4 :: [] ∧ (loaded [] 0).status ≠ .busy) := by decide

/-- TCAP one below the bound, and at it. -/
theorem witness_DecodeSizeCheckFirst :
    let short := { running .decode [1, 2, 3, 4, 5] 5 with sized := false }
    let enough := { running .decode [1, 2, 3, 4, 5] 6 with sized := false }
    (short.status = .busy ∧ short.opl = .decode ∧ short.sized = false ∧ short.hostIn = []
        ∧ short.tcap < (short.slen + 3) / 4 * 3)
      ∧ (enough.status = .busy ∧ enough.opl = .decode ∧ enough.sized = false ∧ enough.hostIn = []
        ∧ (enough.slen + 3) / 4 * 3 ≤ enough.tcap) := by decide

theorem witness_EncodeSizeCheckFirst :
    let short := { running .encode [1, 2, 3, 4] 7 with sized := false }
    let enough := { running .encode [1, 2, 3, 4] 8 with sized := false }
    (short.status = .busy ∧ short.opl = .encode ∧ short.sized = false ∧ short.hostIn = []
        ∧ short.tcap < enclen short.slen short.flags.wrap)
      ∧ (enough.status = .busy ∧ enough.opl = .encode ∧ enough.sized = false ∧ enough.hostIn = []
        ∧ enclen enough.slen enough.flags.wrap ≤ enough.tcap) := by decide

/-- One state for every kind of move the duty forbids; each stops as the obligation says. -/
theorem witness_HostKeepsOffWhileBusy :
    (running .decode [0x41] 3).status = .busy
      ∧ [HostAction.writeSrc 0 [1], .writeTgt 0 [1], .writeReg 1 0, .writeReg 3 0, .writeReg 0 0, .writeReg 0 1, .writeReg 0 4,
          .writeReg 0 7, .sizeTarget, .publicDecode [] true, .publicEncode [] true].all
        (fun a => refusedIs (step (withHost (running .decode [0x41] 3) [a])) .hostWriteWhileBusy) := by decide

/-- Two symbols waiting, and three with exactly the room that is needed. -/
theorem witness_SymbolPushedOrTripletWritten :
    let two := { running .decode [0x44] 3 with w := windowQUJ, wn := 2 }
    let three := { running .decode [0x44] 3 with w := windowQUJ, wn := 3 }
    (byteEnabled two = true ∧ classOf two.cfg 0x44 = .sym ∧ two.wn.toNat < 3)
      ∧ (byteEnabled three = true ∧ classOf three.cfg 0x44 = .sym ∧ three.wn = 3#3 ∧ three.ti + 3 ≤ three.tcap) := by decide

theorem witness_SkipByteOnlyAdvances :
    byteEnabled (running .decode [0x3D] 3) = true ∧ classOf (running .decode [0x3D] 3).cfg 0x3D = .skip := by decide

theorem witness_IllegalByteRaisesOrDrops :
    let loud := running .decode [0xFF] 3
    let silent := { running .decode [0xFF] 3 with flags := silentOnly }
    (byteEnabled loud = true ∧ classOf loud.cfg 0xFF = .ill ∧ loud.flags.silent = false)
      ∧ (byteEnabled silent = true ∧ classOf silent.cfg 0xFF = .ill ∧ silent.flags.silent = true) := by decide

/-- D.QUAD enabled with four bytes left, and not with three; with exactly the room that is needed. -/
theorem witness_QuadWritesTriplet :
    (quadEnabled (running .decode [0x51, 0x55, 0x4A, 0x44] 3) = true
        ∧ (running .decode [0x51, 0x55, 0x4A, 0x44] 3).ti + 3 ≤ (running .decode [0x51, 0x55, 0x4A, 0x44] 3).tcap)
      ∧ quadEnabled (running .decode [0x51, 0x55, 0x4A] 3) = false := by decide

theorem witness_QuadIsFourByteSteps :
    quadEnabled (running .decode [0x2D, 0x5F, 0x2C, 0x2B] 3) = true
      ∧ (running .decode [0x2D, 0x5F, 0x2C, 0x2B] 3).ti + 3 ≤ (running .decode [0x2D, 0x5F, 0x2C, 0x2B] 3).tcap := by decide

theorem witness_TailWithoutSymbolEnds :
    let s := { running .decode [0x3D] 3 with si := 1, ti := 3 }
    decodeRunning s = true ∧ s.si = s.slen ∧ s.wn = 0#3 ∧ s.ti ≤ s.tcap := by decide

theorem witness_LoneSymbolRaisesOrDrops :
    let loud := { running .decode [0x51] 3 with si := 1, wn := 1 }
    let silent := { loud with flags := silentOnly, ti := 3 }
    (decodeRunning loud = true ∧ loud.si = loud.slen ∧ loud.wn = 1#3 ∧ loud.flags.silent = false)
      ∧ (decodeRunning silent = true ∧ silent.si = silent.slen ∧ silent.wn = 1#3 ∧ silent.flags.silent = true
        ∧ silent.ti ≤ silent.tcap) := by decide

theorem witness_TwoSymbolTailWritesByte :
    let s := { running .decode [0x51, 0x55] 3 with si := 2, wn := 2, w := windowQUJ, ti := 2 }
    decodeRunning s = true ∧ s.si = s.slen ∧ s.wn = 2#3 ∧ s.ti + 1 ≤ s.tcap ∧ classOf s.cfg s.w.w0 = .sym
      ∧ classOf s.cfg s.w.w1 = .sym := by decide

theorem witness_ThreeSymbolTailWritesBytes :
    let s := { running .decode [0x51, 0x55, 0x4A] 3 with si := 3, wn := 3, w := windowQUJ, ti := 1 }
    decodeRunning s = true ∧ s.si = s.slen ∧ s.wn = 3#3 ∧ s.ti + 2 ≤ s.tcap ∧ classOf s.cfg s.w.w0 = .sym
      ∧ classOf s.cfg s.w.w1 = .sym ∧ classOf s.cfg s.w.w2 = .sym := by decide

/-- SI one past SLEN with each window count, and TI one past TCAP with the two arms that write nothing. -/
theorem witness_TailAssertionsRaise :
    let past (n : BitVec 3) : State := { running .decode [0x51] 3 with si := 2, wn := n, ti := 1, flags := silentOnly }
    let full (n : BitVec 3) : State := { running .decode [0x51] 3 with si := 1, wn := n, ti := 4, flags := silentOnly }
    ([0#3, 1#3, 2#3, 3#3].all fun n => decodeRunning (past n) && decide ((past n).slen < (past n).si) && (past n).wn == n
          && (past n).flags.silent && decide ((past n).ti + 2 ≤ (past n).tcap)) = true
      ∧ ([0#3, 1#3].all fun n => decodeRunning (full n) && (full n).si == (full n).slen && (full n).wn == n
          && (full n).flags.silent && decide ((full n).tcap < (full n).ti)) = true := by decide

/-- A window count of 4 at the end of the source, and one of 7 before it. -/
theorem witness_WindowViolationRaises :
    let tail := { running .decode [0x51] 3 with si := 1, wn := 4 }
    let push := { running .decode [0x51] 3 with wn := 7 }
    (decodeRunning tail = true ∧ 3 < tail.wn.toNat ∧ tail.slen ≤ tail.si ∧ tail.hostIn = [])
      ∧ (decodeRunning push = true ∧ 3 < push.wn.toNat ∧ push.si < push.slen ∧ classOf push.cfg 0x51 = .sym) := by decide

theorem witness_GroupWritesQuartet :
    let s := { running .encode [0x4D, 0x61, 0x6E] 80 with flags := wrapOnly, ti := 76, line := 72 }
    encodeRunning s = true ∧ breakDue s = false ∧ s.si + 3 ≤ s.slen ∧ s.ti + 4 ≤ s.tcap := by decide

theorem witness_BreakWritesCrLf :
    let s := { running .encode [0x4D] 78 with flags := wrapOnly, ti := 76, line := 76 }
    encodeRunning s = true ∧ breakDue s = true ∧ s.ti + 2 ≤ s.tcap := by decide

theorem witness_OneByteTailPadsTwice :
    let s := running .encode [0xFF] 4
    encodeRunning s = true ∧ breakDue s = false ∧ s.slen = s.si + 1 ∧ s.ti + 4 ≤ s.tcap := by decide

theorem witness_TwoByteTailPadsOnce :
    let s := running .encode [0xFF, 0x01] 4
    encodeRunning s = true ∧ breakDue s = false ∧ s.slen = s.si + 2 ∧ s.ti + 4 ≤ s.tcap := by decide

theorem witness_FinishEndsEncode :
    let good := { running .encode [0x4D] 4 with si := 1, ti := 4 }
    let past := { running .encode [0x4D] 4 with si := 2 }
    let beyond := { running .encode [0x4D] 4 with si := 1, ti := 5 }
    (encodeRunning good = true ∧ good.si = good.slen ∧ good.ti ≤ good.tcap)
      ∧ (encodeRunning past = true ∧ past.slen < past.si)
      ∧ (encodeRunning beyond = true ∧ beyond.si = beyond.slen ∧ beyond.tcap < beyond.ti) := by decide

/-- Each step that writes, with one byte too little room. -/
theorem witness_TargetBoundRaises :
    let sym := { running .decode [0x44] 2 with w := windowQUJ, wn := 3 }
    let quad := running .decode [0x51, 0x55, 0x4A, 0x44] 2
    let tail2 := { running .decode [] 0 with w := windowQUJ, wn := 2 }
    let tail3 := { running .decode [] 1 with w := windowQUJ, wn := 3 }
    let brk := { running .encode [0] 77 with flags := wrapOnly, ti := 76, line := 76 }
    let group := running .encode [1, 2, 3] 3
    let two := running .encode [1, 2] 3
    let one := running .encode [1] 3
    (byteEnabled sym = true ∧ classOf sym.cfg 0x44 = .sym ∧ sym.wn = 3#3 ∧ sym.tcap < sym.ti + 3)
      ∧ (quadEnabled quad = true ∧ quad.tcap < quad.ti + 3)
      ∧ (tailEnabled tail2 = true ∧ tail2.wn = 2#3 ∧ tail2.tcap < tail2.ti + 1)
      ∧ (tailEnabled tail3 = true ∧ tail3.wn = 3#3 ∧ tail3.tcap < tail3.ti + 2)
      ∧ (encodeRunning brk = true ∧ breakDue brk = true ∧ brk.tcap < brk.ti + 2)
      ∧ (encodeRunning group = true ∧ breakDue group = false ∧ group.tcap < group.ti + 4 ∧ group.si + 3 ≤ group.slen)
      ∧ (encodeRunning two = true ∧ breakDue two = false ∧ two.tcap < two.ti + 4 ∧ two.slen = two.si + 2)
      ∧ (encodeRunning one = true ∧ breakDue one = false ∧ one.tcap < one.ti + 4 ∧ one.slen = one.si + 1) := by decide

theorem witness_LengthCommandGivesFormula :
    (running .enclen [] 0).status = .busy ∧ (running .enclen [] 0).opl = .enclen := by decide

/-- The least LEN_W with the greatest length; and both sides of 57. -/
theorem witness_LengthsFitAndGrow :
    (8 ≤ 8 ∧ 255 < 2 ^ 8 ∧ 57 ≤ 58) ∧ enclen 57 true = enclen 57 false ∧ enclen 58 true ≠ enclen 58 false := by decide

theorem witness_ErrorEntryOverAllInstructions :
    (running .decode [0xFF] 3).status ≠ .error
      ∧ ∃ t, exec (.dIll 0xFF) (running .decode [0xFF] 3) = .next t ∧ t.status = .error :=
  ⟨by decide, _, rfl, rfl⟩

theorem witness_OverflowNeverRaised :
    StateInv midDecode ∧ midDecode.errcode.isOverflow = false ∧ ∃ t, step midDecode = .next t :=
  ⟨midDecode_inv, by decide, _, rfl⟩

theorem silent_midDecode_inv : StateInv { midDecode with flags := silentOnly } := by
  unfold StateInv WidthsFit
  refine ⟨by decide, by decide, by decide, by decide, by decide, by decide, fun _ => .inl ⟨rfl, rfl, ?_⟩⟩
  unfold DecodePlace
  decide

theorem witness_SilentDecodeNeverFails :
    let s := { midDecode with flags := silentOnly }
    StateInv s ∧ decodeRunning s = true ∧ s.flags.silent = true ∧ s.hostIn = [] ∧ ∃ t, step s = .next t :=
  ⟨silent_midDecode_inv, by decide, by decide, by decide, _, rfl⟩

/-- Every register number from 0 to the first reserved one; RESULT while not BUSY, STATUS while BUSY. -/
theorem witness_RegisterReads :
    ([0, 1, 2, 3, 4, 5, 6, 7].all fun n => (withHost (loaded [] 0) [.readReg n]).hostIn == .readReg n :: []) = true
      ∧ (loaded [] 0).status ≠ .busy ∧ Config.default.silentBit ≠ Config.default.wrapBit
      ∧ ((withHost (running .decode [] 0) [.readReg 4]).hostIn = .readReg 4 :: [] ∧ 4 ≠ 6) := by decide

theorem witness_ResultReadWhileBusy :
    (withHost (running .decode [] 0) [.readReg 6]).hostIn = .readReg 6 :: []
      ∧ (withHost (running .decode [] 0) [.readReg 6]).status = .busy := by decide

theorem witness_RegisterWrites :
    ([1, 2, 3, 4, 7].all fun n => (withHost (loaded [] 0) [.writeReg n 3]).hostIn == .writeReg n 3 :: []) = true
      ∧ (loaded [] 0).status ≠ .busy
      ∧ (withHost (running .decode [] 0) [.writeReg 6 1]).hostIn = .writeReg 6 1 :: [] := by decide

/-- The last byte of SRC that LEN_W 8 can express, the last byte of TGT, and the last byte below RESULT. -/
theorem witness_BufferAccesses :
    let source := withHost { loaded [] 0 with cfg := { Config.default with lenW := 8 } } [.writeSrc 255 [1]]
    let write := withHost (loaded [] 2) [.writeTgt 1 [1]]
    let read := withHost { loaded [] 2 with status := .done, result := 1, tgt := [(0, 9)] } [.readTgt 0]
    (source.hostIn = .writeSrc 255 [1] :: [] ∧ source.status ≠ .busy ∧ 255 + [1#8].length ≤ 2 ^ source.cfg.lenW)
      ∧ (write.hostIn = .writeTgt 1 [1] :: [] ∧ write.status ≠ .busy ∧ 1 + [1#8].length ≤ write.tcap)
      ∧ (read.hostIn = .readTgt 0 :: [] ∧ read.status = .done ∧ 0 < read.result ∧ 0 < read.tcap
        ∧ readCell read.tgt 0 = some 9) := by decide

theorem witness_HostResetAnyTime :
    ((withHost (running .decode [0x41] 3) [.reset]).hostIn = .reset :: [] ∧ (running .decode [0x41] 3).status = .busy)
      ∧ ((withHost (loaded [0x41] 3) [.reset]).hostIn = .reset :: [] ∧ (loaded [0x41] 3).status ≠ .busy) := by decide

/-- A source that fits; sizeTarget with a RESULT one past what LEN_W 8 holds, and collect at ERROR and at DONE, where the last byte
below RESULT is held. -/
theorem witness_PublicFormsExpand :
    let size := withHost { loaded [] 0 with cfg := { Config.default with lenW := 8 }, status := .done, result := 256 }
      [.sizeTarget, .run]
    let bad := withHost { loaded [] 3 with status := .error, errcode := .corrupt } [.collect]
    let good := withHost { loaded [] 3 with status := .done, result := 2, tgt := [(1, 9)] } [.collect]
    (State.reset.status ≠ .busy ∧ [0x51#8].length < 2 ^ State.reset.cfg.lenW)
      ∧ (size.hostIn = .sizeTarget :: [.run] ∧ size.status ≠ .busy)
      ∧ (bad.hostIn = .collect :: [] ∧ bad.status = .error)
      ∧ (good.hostIn = .collect :: [] ∧ good.status ≠ .error ∧ good.status ≠ .busy ∧ good.status = .done
        ∧ 1 < good.result ∧ readCell good.tgt 1 = some 9) := by decide

/-- The last source byte, with the fast path closed; and four symbols, with it open. -/
theorem witness_StepRunsSourceByte :
    let slow := running .decode [0x51] 3
    let quick := running .decode [0x51, 0x55, 0x4A, 0x44] 3
    (decodeRunning slow = true ∧ slow.si < slow.slen ∧ slow.hostIn = [] ∧ quadEnabled slow = false)
      ∧ (decodeRunning quick = true ∧ quick.si < quick.slen ∧ quick.hostIn = [] ∧ quadEnabled quick = true) := by decide

/-- The four tails; the five encode steps; the length calculator. -/
theorem witness_StepRunsSelectedStep :
    ([0#3, 1#3, 2#3, 3#3].all fun n =>
        let s := { running .decode [] 3 with wn := n }
        s.hostIn == [] && decodeRunning s && s.si == s.slen && s.wn == n) = true
      ∧ (let brk := { running .encode [0] 84 with flags := wrapOnly, line := 76 }
        encodeRunning brk = true ∧ brk.hostIn = [] ∧ breakDue brk = true)
      ∧ (let group := running .encode [1, 2, 3] 4
        encodeRunning group = true ∧ group.hostIn = [] ∧ breakDue group = false ∧ group.si + 3 ≤ group.slen)
      ∧ (let two := running .encode [1, 2] 4
        encodeRunning two = true ∧ breakDue two = false ∧ two.slen = two.si + 2)
      ∧ (let one := running .encode [1] 4
        encodeRunning one = true ∧ breakDue one = false ∧ one.slen = one.si + 1)
      ∧ (let fin := running .encode [] 0
        encodeRunning fin = true ∧ fin.si = fin.slen)
      ∧ ((running .enclen [] 0).status = .busy ∧ (running .enclen [] 0).opl = .enclen) := by decide

theorem witness_IdleBlockHolds : (loaded [] 0).status ≠ .busy ∧ (loaded [] 0).hostIn = [] := by decide

theorem witness_HostListSchedules :
    ((withHost midDecode [.run, .reset]).hostIn = .run :: [.reset]
        ∧ ∃ t, step { withHost midDecode [.run, .reset] with hostIn := [] } = .next t)
      ∧ ((withHost midDecode [.wait]).hostIn = .wait :: [] ∧ (withHost midDecode [.wait]).status = .busy
        ∧ ∃ t, step { withHost midDecode [.wait] with hostIn := [] } = .next t)
      ∧ ((withHost midEncode [.collect]).hostIn = .collect :: [] ∧ (withHost midEncode [.collect]).status = .busy
        ∧ ∃ t, step { withHost midEncode [.collect] with hostIn := [] } = .next t)
      ∧ ((withHost (loaded [] 0) [.wait]).hostIn = .wait :: [] ∧ (loaded [] 0).status ≠ .busy)
      ∧ (withHost (loaded [] 0) [.publicDecode [0x51] true]).hostIn = .publicDecode [0x51] true :: []
      ∧ (withHost (loaded [] 0) [.publicEncode [0x51] true, .run]).hostIn = .publicEncode [0x51] true :: [.run] :=
  ⟨⟨by decide, _, rfl⟩, ⟨by decide, by decide, _, rfl⟩, ⟨by decide, by decide, _, rfl⟩, by decide, by decide, by decide⟩

/-- A start, an end and a reset: STATUS changes in each. -/
theorem witness_StatusTransitions :
    (∃ t, step (withHost (loaded [] 0) [.writeReg 0 1]) = .next t ∧ t.status ≠ (loaded [] 0).status)
      ∧ (∃ t, step (running .encode [] 0) = .next t ∧ t.status ≠ (running .encode [] 0).status)
      ∧ ∃ t, step (withHost (running .encode [] 0) [.reset]) = .next t ∧ t.status ≠ (running .encode [] 0).status :=
  ⟨⟨_, rfl, by decide⟩, ⟨_, rfl, by decide⟩, _, rfl, by decide⟩

theorem witness_SourceNeverMutated :
    midDecode.status = .busy ∧ ∃ t, exec (.dSkip 0x3D) midDecode = .next t := ⟨by decide, _, rfl⟩

theorem midDecode_tracks : DecodeTracks midDecode := by
  intro _
  exact ⟨⟨[0x51, 0x55, 0x4A, 0x44], by decide, by decide, by decide⟩, by decide⟩

theorem witness_StepKeepsDecodeTracks :
    StateInv midDecode ∧ DecodeTracks midDecode ∧ decodeRunning midDecode = true ∧ ∃ t, step midDecode = .next t :=
  ⟨midDecode_inv, midDecode_tracks, by decide, _, rfl⟩

theorem midEncode_tracks : EncodeTracks midEncode := by
  intro _
  refine ⟨fun j hj => ?_, fun _ i h1 h2 => ?_⟩
  · have : j < 4 := hj
    interval_cases j <;> decide
  · have : i ≤ 0 := h2
    omega

theorem witness_StepKeepsEncodeTracks :
    StateInv midEncode ∧ EncodeTracks midEncode ∧ encodeRunning midEncode = true ∧ ∃ t, step midEncode = .next t :=
  ⟨midEncode_inv, midEncode_tracks, by decide, _, rfl⟩

/-- A source and a target that are both in range: the hypotheses of the two computation statements. -/
theorem loaded_inv : StateInv (loaded [0x51, 0x51, 0x3D, 0x3D] 4) := by
  unfold StateInv WidthsFit
  exact ⟨by decide, by decide, by decide, by decide, by decide, by decide, fun h => by cases h⟩

theorem witness_DecodeComputesFunction :
    StateInv (loaded [0x51, 0x51, 0x3D, 0x3D] 4) ∧ (loaded [0x51, 0x51, 0x3D, 0x3D] 4).status ≠ .busy
      ∧ (loaded [0x51, 0x51, 0x3D, 0x3D] 4).hostIn = [] ∧ deccap 4 ≤ 4 :=
  ⟨loaded_inv, by decide, by decide, by decide⟩

theorem witness_EncodeWritesText :
    StateInv State.reset ∧ State.reset.status ≠ .busy ∧ State.reset.hostIn = []
      ∧ enclen State.reset.slen State.reset.flags.wrap ≤ State.reset.tcap :=
  ⟨reset_inv, by decide, by decide, by decide⟩

theorem witness_CommandsEnd :
    (StateInv midDecode ∧ midDecode.status = .busy ∧ midDecode.hostIn = [])
      ∧ (StateInv midEncode ∧ midEncode.status = .busy ∧ midEncode.hostIn = []) :=
  ⟨⟨midDecode_inv, by decide, by decide⟩, midEncode_inv, by decide, by decide⟩

end Sys2Proof.Tests
end

section
/-! PROOFS. Statements of 00_scope.md: the registers after reset, and who moves next. The block neither reads nor writes the
host's list (00 R15), so each of its moves commutes with exchanging the list; a scheduling action then differs from the empty
list in the list alone. -/

namespace Sys2Proof.Machine

/-! ## Reset -/

/-- Settles O1: State.reset names each of these fields at its value. -/
theorem resetLeavesSpecifiedValues : Obligations.ResetLeavesSpecifiedValues :=
  ⟨rfl, rfl, rfl, rfl, rfl, rfl, rfl, rfl, rfl, rfl, rfl, rfl, rfl, rfl, rfl⟩

/-! ## Exchanging the host's list -/

/-- s with l as what the host does next. -/
def State.withHost (l : List HostAction) (s : State) : State := { s with hostIn := l }

/-- A move made in the state with l as what the host does next. -/
def Move.withHost (l : List HostAction) : Move → Move
  | .idle s => .idle (s.withHost l)
  | .instr i s => .instr i (s.withHost l)
  | .window s => .window (s.withHost l)
  | .host a s => .host a (s.withHost l)
  | .stuck => .stuck

/-- An outcome with l as what the host does next in its next state, if it has one. -/
def outcomeWithHost (l : List HostAction) : Host.Outcome State Fault Refusal → Host.Outcome State Fault Refusal
  | .next s => .next (s.withHost l)
  | .fault r => .fault r
  | .refused r => .refused r

/-- A state update that neither reads nor writes the host's list. -/
def HostBlind (f : State → State) : Prop := ∀ l s, f (s.withHost l) = (f s).withHost l

theorem withHost_withHost (l m : List HostAction) (s : State) : (s.withHost m).withHost l = s.withHost l := rfl

theorem withHost_hostIn {l : List HostAction} {s : State} (h : s.hostIn = l) : s.withHost l = s := by
  subst h; rfl

/-! ## The shared operations do not see the list -/

theorem raise_hostBlind (e : ErrCode) : HostBlind (raise e) := fun _ _ => rfl

theorem skipByte_hostBlind : HostBlind skipByte := fun _ _ => rfl

theorem commandStart_hostBlind (op : Op) : HostBlind (commandStart op) := fun _ _ => rfl

theorem finish_hostBlind : HostBlind finish := fun l s => by
  simp only [finish, apply_ite (State.withHost l)]
  rfl

theorem sizeCheck_hostBlind (need : Nat) : HostBlind (sizeCheck need) := fun l s => by
  simp only [sizeCheck, apply_ite (State.withHost l)]
  rfl

theorem emit_hostBlind (bytes : List Byte) {goOn : State → State} (h : HostBlind goOn) : HostBlind (emit bytes goOn) := by
  intro l s
  rw [emit, emit, apply_ite (State.withHost l), ← h l]
  rfl

theorem emitQuartet_hostBlind (quartet : List Byte) (n : Nat) : HostBlind (emitQuartet quartet n) :=
  emit_hostBlind quartet fun _ _ => rfl

theorem pushSymbol_hostBlind (b : Byte) : HostBlind (pushSymbol b) := by
  intro l s
  simp only [pushSymbol, apply_ite (State.withHost l)]
  rw [← emit_hostBlind _ (goOn := id) (fun _ _ => rfl) l]
  rfl

/-! ## The block's instructions do not see the list -/

/-- The public forms, which write the host's list (44 R279, R280). -/
def isPublicForm : Instr → Bool
  | .publicDecode _ _ => true
  | .publicEncode _ _ => true
  | _ => false

/-- A guarded meaning commutes with exchanging the list if its update does. -/
theorem guarded_withHost {g : Prop} [Decidable g] {l : List HostAction} {t u : State} {r : Refusal} (h : t = u.withHost l) :
    (if g then (Host.Outcome.next t : Host.Outcome State Fault Refusal) else .refused r)
      = outcomeWithHost l (if g then .next u else .refused r) := by
  subst h
  split <;> rfl

/-- A command with a size check of its own commutes with exchanging the list: its start and its check do. -/
theorem sizedCommand_withHost {g k : Prop} [Decidable g] [Decidable k] (op : Op) (need : Nat) (l : List HostAction) (s : State)
    (r : Refusal) :
    (if g then (Host.Outcome.next (commandStart op (s.withHost l)) : Host.Outcome State Fault Refusal)
      else if k then .next (sizeCheck need (s.withHost l)) else .refused r)
      = outcomeWithHost l
          (if g then .next (commandStart op s) else if k then .next (sizeCheck need s) else .refused r) := by
  split
  · rfl
  · exact guarded_withHost (sizeCheck_hostBlind need l s)

theorem exec_withHost {i : Instr} (hi : isPublicForm i = false) (l : List HostAction) (s : State) :
    exec i (s.withHost l) = outcomeWithHost l (exec i s) := by
  cases i with
  | dSym b => exact guarded_withHost (pushSymbol_hostBlind b l s)
  | dSkip b => exact guarded_withHost (skipByte_hostBlind l s)
  | dIll b =>
    refine guarded_withHost ?_
    rw [apply_ite (State.withHost l)]
    rfl
  | dQuad => exact guarded_withHost (emit_hostBlind _ (fun _ _ => rfl) l s)
  | dTail0 => exact guarded_withHost (finish_hostBlind l s)
  | dTail1 =>
    refine guarded_withHost ?_
    rw [apply_ite (State.withHost l), ← finish_hostBlind]
    rfl
  | dTail2 => exact guarded_withHost (emit_hostBlind _ finish_hostBlind l { s with wn := 0#3 })
  | dTail3 => exact guarded_withHost (emit_hostBlind _ finish_hostBlind l { s with wn := 0#3 })
  | eBreak => exact guarded_withHost (emit_hostBlind _ (fun _ _ => rfl) l s)
  | eGroup => exact guarded_withHost (emitQuartet_hostBlind _ _ l s)
  | eTail1 => exact guarded_withHost (emitQuartet_hostBlind _ _ l s)
  | eTail2 => exact guarded_withHost (emitQuartet_hostBlind _ _ l s)
  | eFinish => exact guarded_withHost (finish_hostBlind l s)
  | lEnclen => exact guarded_withHost rfl
  | cmdNop => rfl
  | cmdDecode => exact sizedCommand_withHost .decode _ l s _
  | cmdEncode => exact sizedCommand_withHost .encode _ l s _
  | cmdEnclen => exact guarded_withHost (commandStart_hostBlind .enclen l s)
  | publicDecode source silent => cases hi
  | publicEncode source wrap => cases hi

/-! ## The block's move does not see the list -/

theorem decodeMove_withHost (l : List HostAction) (s : State) : decodeMove (s.withHost l) = (decodeMove s).withHost l := by
  simp only [decodeMove, apply_ite (Move.withHost l)]
  rfl

theorem encodeMove_withHost (l : List HostAction) (s : State) : encodeMove (s.withHost l) = (encodeMove s).withHost l := by
  simp only [encodeMove, apply_ite (Move.withHost l)]
  rfl

theorem blockMove_withHost (l : List HostAction) (s : State) : blockMove (s.withHost l) = (blockMove s).withHost l := by
  by_cases hb : s.status = .busy
  case neg => rw [blockMove_idle hb, blockMove_idle (s := s.withHost l) hb]; rfl
  cases ho : s.opl with
  | nop => simp [blockMove, State.withHost, Move.withHost, hb, ho]
  | decode => rw [blockMove_decode hb ho, blockMove_decode (s := s.withHost l) hb ho, decodeMove_withHost]
  | encode => rw [blockMove_encode hb ho, blockMove_encode (s := s.withHost l) hb ho, encodeMove_withHost]
  | enclen => simp [blockMove, State.withHost, Move.withHost, hb, ho]

/-- A move of the block: no public form, and no host action. -/
def Move.ofBlock : Move → Prop
  | .instr i _ => isPublicForm i = false
  | .host _ _ => False
  | .idle _ => True
  | .window _ => True
  | .stuck => True

theorem decodeByte_not_public (c : Config) (b : Byte) : isPublicForm (decodeByte c b) = false := by
  unfold decodeByte
  split <;> rfl

theorem decodeMove_ofBlock (s : State) : (decodeMove s).ofBlock := by
  unfold decodeMove
  split_ifs
  · rfl
  · rfl
  · exact decodeByte_not_public _ _
  · rfl
  · rfl
  · rfl
  · rfl
  · trivial

theorem encodeMove_ofBlock (s : State) : (encodeMove s).ofBlock := by
  unfold encodeMove
  split_ifs <;> rfl

theorem blockMove_ofBlock (s : State) : (blockMove s).ofBlock := by
  unfold blockMove
  split
  · trivial
  · split
    · trivial
    · exact decodeMove_ofBlock s
    · exact encodeMove_ofBlock s
    · rfl

/-! ## The block's step does not see the list -/

/-- The outcome of a move: what step makes of it. -/
def makeMove : Move → Host.Outcome State Fault Refusal
  | .idle s => .next s
  | .instr i s => exec i s
  | .window s => .next (tailWindow s)
  | .host a s => hostAct a s
  | .stuck => .fault .noEngine

theorem step_eq_makeMove (s : State) : step s = makeMove (nextMove s) := by
  unfold step
  cases nextMove s <;> rfl

theorem makeMove_withHost {m : Move} (hm : m.ofBlock) (l : List HostAction) :
    makeMove (m.withHost l) = outcomeWithHost l (makeMove m) := by
  cases m with
  | idle s => rfl
  | instr i s => exact exec_withHost hm l s
  | window s => rfl
  | host a s => exact hm.elim
  | stuck => rfl

/-- What the block does with the host's list empty it does under any list, which it keeps. -/
theorem makeMove_blockMove_of_alone {s t : State} (h : step (s.withHost []) = .next t) (l : List HostAction) :
    makeMove (blockMove (s.withHost l)) = .next (t.withHost l) := by
  have alone : makeMove (blockMove (s.withHost [])) = .next t := by rw [← h, step_eq_makeMove, nextMove_alone rfl]
  calc makeMove (blockMove (s.withHost l))
      = outcomeWithHost l (makeMove (blockMove (s.withHost []))) := by
        rw [← withHost_withHost l [], blockMove_withHost, makeMove_withHost (blockMove_ofBlock _)]
    _ = .next (t.withHost l) := by rw [alone]; rfl

/-! ## The host's list schedules -/

theorem step_run {s t : State} {rest : List HostAction} (hs : s.hostIn = .run :: rest)
    (h : step (s.withHost []) = .next t) : step s = .next (t.withHost rest) := by
  rw [step_eq_makeMove, nextMove_run hs]
  exact makeMove_blockMove_of_alone h rest

theorem step_waits {s t : State} {a : HostAction} {rest : List HostAction} (hs : s.hostIn = a :: rest)
    (ha : a = .wait ∨ a = .collect) (hb : s.status = .busy) (h : step (s.withHost []) = .next t) :
    step s = .next (t.withHost (a :: rest)) := by
  rw [step_eq_makeMove, nextMove_waits hs ha hb, ← makeMove_blockMove_of_alone h (a :: rest), withHost_hostIn hs]

theorem step_wait_ends {s : State} {rest : List HostAction} (hs : s.hostIn = .wait :: rest) (hb : s.status ≠ .busy) :
    step s = .next { s with hostIn := rest } := by
  simp [step_eq_makeMove, makeMove, nextMove, hs, hb]

theorem step_publicDecode {s : State} {rest : List HostAction} {source : List Byte} {silent : Bool}
    (hs : s.hostIn = .publicDecode source silent :: rest) :
    step s = exec (.publicDecode source silent) { s with hostIn := rest } := by
  rw [step_eq_makeMove, nextMove_host hs (by simp) (by simp) (by simp)]
  rfl

theorem step_publicEncode {s : State} {rest : List HostAction} {source : List Byte} {wrap : Bool}
    (hs : s.hostIn = .publicEncode source wrap :: rest) :
    step s = exec (.publicEncode source wrap) { s with hostIn := rest } := by
  rw [step_eq_makeMove, nextMove_host hs (by simp) (by simp) (by simp)]
  rfl

/-- Settles O52: the block's step commutes with exchanging the list, and nextMove says which list it moves under. -/
theorem hostListSchedules : Obligations.HostListSchedules := fun _ _ =>
  ⟨fun hs _ h => step_run hs h,
   fun hs hb _ h => step_waits hs (.inl rfl) hb h,
   fun hs hb _ h => step_waits hs (.inr rfl) hb h,
   step_wait_ends,
   fun _ _ hs => step_publicDecode hs,
   fun _ _ hs => step_publicEncode hs⟩

end Sys2Proof.Machine
end

section
/-! PROOFS. Statements of 40_alphabet_rom.md: the invariants of the decode tables (R135). A symbol's entry holds its value in
the six places of its quartet position and zero elsewhere (30 R96); the four positions lie side by side and end below the
marker bits, and from that every invariant about an OR of entries follows. -/

namespace Sys2Proof.Machine

/-! ## The entry of each class -/

theorem dtab_sym {c : Config} {b : Byte} (h : classOf c b = .sym) (p : Fin 4) : dtab c p b = symEntry p (val c b) := by
  rw [dtab, h]

theorem dtab_skip {c : Config} {b : Byte} (h : classOf c b = .skip) (p : Fin 4) : dtab c p b = skipEntry := by
  rw [dtab, h]

theorem dtab_ill {c : Config} {b : Byte} (h : classOf c b = .ill) (p : Fin 4) : dtab c p b = illEntry := by
  rw [dtab, h]

/-! ## The bits of a symbol's entry -/

/-- In groups of six bits from the right, position p is group 3 - p: there stands the value, and every other bit is clear. -/
theorem symEntry_getLsbD (p : Fin 4) (v : Value) (i : Nat) :
    (symEntry p v).getLsbD i = (decide (i / 6 = 3 - p.val) && v.getLsbD (i % 6)) := by
  by_cases place : i / 6 = 3 - p.val
  · have lo : 18 - 6 * p.val ≤ i := by omega
    have hi : i < 26 := by omega
    have offset : i - (18 - 6 * p.val) = i % 6 := by omega
    simp [symEntry, place, lo, hi, offset]
  · obtain below | above : i < 18 - 6 * p.val ∨ 6 ≤ i - (18 - 6 * p.val) := by omega
    · simp [symEntry, place, below]
    · simp [symEntry, place, BitVec.getLsbD_of_ge v _ above]

theorem symEntry_special (p : Fin 4) (v : Value) : (symEntry p v).getLsbD 24 = false := by
  have above : ¬ 24 / 6 = 3 - p.val := by omega
  rw [symEntry_getLsbD, decide_eq_false above, Bool.false_and]

theorem symEntry_in_place (p : Fin 4) (v : Value) : symEntry p v &&& ~~~(63#26 <<< (18 - 6 * p.val)) = 0#26 := by
  have sixBits : v.setWidth 26 = v.setWidth 26 &&& 63#26 := by
    rw [show 63#26 = (BitVec.allOnes 6).setWidth 26 from rfl, ← BitVec.setWidth_and, BitVec.and_allOnes]
  rw [symEntry, sixBits, BitVec.shiftLeft_and_distrib, BitVec.and_assoc, BitVec.and_not_self]
  exact BitVec.and_zero

theorem symEntry_three (v : Value) : (symEntry 3 v).setWidth 6 = v := by
  simp [symEntry]

/-! ## The OR of four entries -/

/-- Bit i of the 24 lies in one group of six alone, and the entry of that group's position has the value's bit there. -/
theorem symEntry_or_eq_append (v0 v1 v2 v3 : Value) :
    (symEntry 0 v0 ||| symEntry 1 v1 ||| symEntry 2 v2 ||| symEntry 3 v3).setWidth 24 = v0 ++ v1 ++ v2 ++ v3 := by
  apply BitVec.eq_of_getLsbD_eq
  intro i hi
  rw [BitVec.getLsbD_append, BitVec.getLsbD_append, BitVec.getLsbD_append]
  simp only [BitVec.getLsbD_setWidth, BitVec.getLsbD_or, symEntry_getLsbD, hi, decide_true, Bool.true_and]
  obtain ⟨r, hr, group⟩ : ∃ r < 6, i = r ∨ i = r + 6 ∨ i = r + 6 + 6 ∨ i = r + 6 + 6 + 6 :=
    ⟨i % 6, Nat.mod_lt i (by decide), by omega⟩
  have quot : r / 6 = 0 := Nat.div_eq_of_lt hr
  have rem : r % 6 = r := Nat.mod_eq_of_lt hr
  obtain rfl | rfl | rfl | rfl := group
  all_goals simp [hr, quot, rem]

theorem quartetEntry_of_sym {c : Config} {b0 b1 b2 b3 : Byte} (h0 : classOf c b0 = .sym) (h1 : classOf c b1 = .sym)
    (h2 : classOf c b2 = .sym) (h3 : classOf c b3 = .sym) :
    (quartetEntry c b0 b1 b2 b3).setWidth 24 = val c b0 ++ val c b1 ++ val c b2 ++ val c b3 := by
  rw [quartetEntry, dtab_sym h0, dtab_sym h1, dtab_sym h2, dtab_sym h3, symEntry_or_eq_append]

/-! ## The markers -/

theorem entryClass_dtab (c : Config) (p : Fin 4) (b : Byte) : entryClass (dtab c p b) = classOf c b := by
  cases h : classOf c b with
  | sym => rw [dtab_sym h, entryClass, if_pos (symEntry_special p _)]
  | skip => rw [dtab_skip h]; rfl
  | ill => rw [dtab_ill h]; rfl

theorem dtab_special (c : Config) (p : Fin 4) (b : Byte) : (dtab c p b).getLsbD 24 = true ↔ classOf c b ≠ .sym := by
  cases h : classOf c b with
  | sym => rw [dtab_sym h, symEntry_special]; simp
  | skip => simp [dtab_skip h, skipEntry]
  | ill => simp [dtab_ill h, illEntry]

theorem quartetEntry_special (c : Config) (b0 b1 b2 b3 : Byte) :
    (quartetEntry c b0 b1 b2 b3).getLsbD 24 = true ↔
      classOf c b0 ≠ .sym ∨ classOf c b1 ≠ .sym ∨ classOf c b2 ≠ .sym ∨ classOf c b3 ≠ .sym := by
  simp only [quartetEntry, BitVec.getLsbD_or, Bool.or_eq_true, dtab_special, or_assoc]

/-! ## The invariants -/

/-- Settles O8: each entry by its byte's class; the ORs by the places of the symbols' entries and by the SPECIAL bit. -/
theorem romTableInvariants : Obligations.RomTableInvariants :=
  ⟨fun c p b => ⟨entryClass_dtab c p b, fun h => dtab_skip h p, fun h => dtab_ill h p,
      fun h => (dtab_sym h p).symm ▸ symEntry_in_place p _⟩,
   fun _ _ _ _ _ => quartetEntry_of_sym,
   quartetEntry_special,
   fun _ _ h => (dtab_sym h 3).symm ▸ symEntry_three _⟩

end Sys2Proof.Machine
end

section
/-! PROOFS. Statements of 41_decode_fsm.md: the steps of the decode engine. Every step that consumes source bytes without an
error ends in State.decoded, and every TAIL step that ends the command in State.endedWith; both say which bytes are written. -/

namespace Sys2Proof.Machine

/-! ## Reading what is written -/

/-- Bytes written to TGT, as TargetWritten says it. -/
theorem targetWritten_of_writeBytes {s t : State} {a : Nat} {bytes : List Byte} (h : t.tgt = writeBytes s.tgt a bytes) :
    TargetWritten s t a bytes := by
  rw [TargetWritten, h]
  exact ⟨fun k hk => readCell_writeBytes_inside bytes s.tgt a k hk,
    fun i hi => readCell_writeBytes_outside bytes s.tgt a i hi⟩

/-- TGT cut, as TargetCutAt says it. -/
theorem targetCutAt_of_keepBelow {s t : State} {n : Nat} (h : t.tgt = keepBelow s.tgt n) : TargetCutAt s t n := fun i => by
  rw [h, readCell_keepBelow]

/-! ## The quartet function and the tails (41 R165, R183, R184) -/

theorem wordByte0_setWidth (e : Entry) : wordByte0 e = (e.setWidth 24).extractLsb' 16 8 := by
  rw [wordByte0, BitVec.extractLsb'_setWidth_of_le (by decide)]

theorem wordByte1_setWidth (e : Entry) : wordByte1 e = (e.setWidth 24).extractLsb' 8 8 := by
  rw [wordByte1, BitVec.extractLsb'_setWidth_of_le (by decide)]

theorem wordByte2_setWidth (e : Entry) : wordByte2 e = (e.setWidth 24).extractLsb' 0 8 := by
  rw [wordByte2, BitVec.extractLsb'_setWidth_of_le (by decide)]

/-- The three bytes of four values side by side are the formulas of 41 R165, bit by bit. -/
theorem append_bytes (v0 v1 v2 v3 : Value) :
    (v0 ++ v1 ++ v2 ++ v3).extractLsb' 16 8 = (v0.setWidth 8 <<< 2) ||| (v1.setWidth 8 >>> 4)
      ∧ (v0 ++ v1 ++ v2 ++ v3).extractLsb' 8 8 = ((v1.setWidth 8 &&& 15#8) <<< 4) ||| (v2.setWidth 8 >>> 2)
      ∧ (v0 ++ v1 ++ v2 ++ v3).extractLsb' 0 8 = ((v2.setWidth 8 &&& 3#8) <<< 6) ||| v3.setWidth 8 := by
  refine ⟨?_, ?_, ?_⟩
  all_goals
    apply BitVec.eq_of_getLsbD_eq
    intro i hi
    rw [BitVec.getLsbD_extractLsb', BitVec.getLsbD_append, BitVec.getLsbD_append, BitVec.getLsbD_append]
    interval_cases i <;> simp

theorem dec4_of_sym {c : Config} {b0 b1 b2 b3 : Byte} (h0 : classOf c b0 = .sym) (h1 : classOf c b1 = .sym)
    (h2 : classOf c b2 = .sym) (h3 : classOf c b3 = .sym) : dec4 c b0 b1 b2 b3 = tripletOf c b0 b1 b2 b3 := by
  obtain ⟨byte0, byte1, byte2⟩ := append_bytes (val c b0) (val c b1) (val c b2) (val c b3)
  simp only [dec4, wordByte0_setWidth, wordByte1_setWidth, wordByte2_setWidth, quartetEntry_of_sym h0 h1 h2 h3, byte0,
    byte1, byte2]
  rfl

/-- The byte A is a symbol of value 0, under all parameters. -/
theorem symVal_A (c : Config) : symVal c 0x41#8 = some 0 := by simp [symVal]

theorem classOf_A (c : Config) : classOf c 0x41#8 = .sym := by simp [classOf, symVal_A]

/-- So it stands for a missing symbol: it adds nothing to the OR. -/
theorem dtab_A (c : Config) (p : Fin 4) : dtab c p 0x41#8 = 0#26 := by
  rw [dtab_sym (classOf_A c), val, symVal_A]
  simp [symEntry]

theorem dec2_eq_dec4_take (c : Config) (b0 b1 : Byte) : dec2 c b0 b1 = (dec4 c b0 b1 0x41#8 0x41#8).take 1 := by
  simp [dec2, dec4, quartetEntry, dtab_A]

theorem dec3_eq_dec4_take (c : Config) (b0 b1 b2 : Byte) : dec3 c b0 b1 b2 = (dec4 c b0 b1 b2 0x41#8).take 2 := by
  simp [dec3, dec4, quartetEntry, dtab_A]

theorem dec2_of_sym {c : Config} {b0 b1 : Byte} (h0 : classOf c b0 = .sym) (h1 : classOf c b1 = .sym) :
    dec2 c b0 b1 = (tripletOf c b0 b1 0x41#8 0x41#8).take 1 := by
  rw [dec2_eq_dec4_take, dec4_of_sym h0 h1 (classOf_A c) (classOf_A c)]

theorem dec3_of_sym {c : Config} {b0 b1 b2 : Byte} (h0 : classOf c b0 = .sym) (h1 : classOf c b1 = .sym)
    (h2 : classOf c b2 = .sym) : dec3 c b0 b1 b2 = (tripletOf c b0 b1 b2 0x41#8).take 2 := by
  rw [dec3_eq_dec4_take, dec4_of_sym h0 h1 h2 (classOf_A c)]

/-- Settles O12: four symbols by the word of their values, a tail as the quartet filled up with A. -/
theorem quartetDecodesByFormula : Obligations.QuartetDecodesByFormula :=
  ⟨fun _ _ _ _ _ => dec4_of_sym, fun _ _ _ => dec2_of_sym, fun _ _ _ _ => dec3_of_sym⟩

/-! ## The steps that consume bytes -/

/-- s with n source bytes consumed, a window and its count, and bytes written at TI. -/
def State.decoded (s : State) (w : Window) (wn : BitVec 3) (n : Nat) (bytes : List Byte) : State :=
  { s with w := w, wn := wn, si := s.si + n, ti := s.ti + bytes.length, tgt := writeBytes s.tgt s.ti bytes }

theorem exec_dSym {b : Byte} {s : State} (he : byteEnabled s = true) (hc : classOf s.cfg b = .sym) :
    exec (.dSym b) s = .next (pushSymbol b s) :=
  if_pos (by simp [he, hc])

theorem exec_dSym_waits {b : Byte} {s : State} (he : byteEnabled s = true) (hc : classOf s.cfg b = .sym)
    (hw : s.wn.toNat < 3) :
    exec (.dSym b) s = .next (s.decoded (s.w.store b s.wn.toNat) (s.wn + 1#3) 1 []) := by
  rw [exec_dSym he hc, pushSymbol_waits hw]
  rfl

theorem exec_dSym_completes {b : Byte} {s : State} (he : byteEnabled s = true) (hc : classOf s.cfg b = .sym)
    (hw : s.wn = 3#3) (hr : s.ti + 3 ≤ s.tcap) :
    exec (.dSym b) s = .next (s.decoded { s.w with w3 := b } 0#3 1 (dec4 s.cfg s.w.w0 s.w.w1 s.w.w2 b)) := by
  rw [exec_dSym he hc, pushSymbol_completes hw hr]
  rfl

theorem exec_dSkip {b : Byte} {s : State} (he : byteEnabled s = true) (hc : classOf s.cfg b = .skip) :
    exec (.dSkip b) s = .next (skipByte s) :=
  if_pos (by simp [he, hc])

theorem exec_dIll {b : Byte} {s : State} (he : byteEnabled s = true) (hc : classOf s.cfg b = .ill) :
    exec (.dIll b) s = .next (if s.flags.silent then skipByte s else raise .corrupt s) :=
  if_pos (by simp [he, hc])

theorem quadEnabled_iff (s : State) :
    quadEnabled s = true ↔ s.cfg.fastPath = true ∧ decodeRunning s = true ∧ s.wn = 0#3 ∧ s.si + 4 ≤ s.slen
      ∧ ∀ k, k < 4 → classOf s.cfg (srcByte s (s.si + k)) = .sym := by
  have special := quartetEntry_special s.cfg (srcByte s s.si) (srcByte s (s.si + 1)) (srcByte s (s.si + 2))
    (srcByte s (s.si + 3))
  rw [← not_iff_not, Bool.not_eq_true] at special
  simp only [quadEnabled, Bool.and_eq_true, Bool.not_eq_true', beq_iff_eq, decide_eq_true_eq, special, and_assoc, not_or,
    not_not, Nat.forall_lt_succ_right, Nat.not_lt_zero, false_implies, implies_true, true_and, Nat.add_zero]

theorem exec_dQuad {s : State} (hq : quadEnabled s = true) (hr : s.ti + 3 ≤ s.tcap) :
    exec .dQuad s = .next (s.decoded s.w s.wn 4
      (dec4 s.cfg (srcByte s s.si) (srcByte s (s.si + 1)) (srcByte s (s.si + 2)) (srcByte s (s.si + 3)))) := by
  refine (if_pos hq).trans ?_
  rw [emit_fits hr]
  rfl

/-- Settles O20: a push that waits, and one that completes the quartet. -/
theorem symbolPushedOrTripletWritten : Obligations.SymbolPushedOrTripletWritten := by
  intro b s he hc
  refine ⟨fun hw => ⟨s.w.store b s.wn.toNat, exec_dSym_waits he hc hw, ?_, fun k hk hne => ?_⟩,
    fun hw hr => ⟨_, exec_dSym_completes he hc hw hr, rfl, targetWritten_of_writeBytes rfl⟩⟩
  · rw [store_slot _ _ _ _ (by omega) (by omega), if_pos rfl]
  · rw [store_slot _ _ _ _ (by omega) hk, if_neg hne]

/-- Settles O21. -/
theorem skipByteOnlyAdvances : Obligations.SkipByteOnlyAdvances := fun _ _ => exec_dSkip

/-- Settles O22: the two values of SILENT. -/
theorem illegalByteRaisesOrDrops : Obligations.IllegalByteRaisesOrDrops := by
  intro b s he hc
  rw [exec_dIll he hc]
  refine ⟨fun loud => ⟨raise .corrupt s, ?_, raise_errorEntry .corrupt s⟩, fun silent => ?_⟩
  · simp [loud]
  · rw [if_pos silent]
    rfl

/-! ## D.QUAD is four pushes (41 R176) -/

theorem fetch_sym {s : State} (h : classOf s.cfg (srcByte s s.si) = .sym) : fetch s = .dSym (srcByte s s.si) := by
  rw [fetch, decodeByte, h]

section Fetch
variable {s : State} (he : byteEnabled s = true) (hc : classOf s.cfg (srcByte s s.si) = .sym)
include he hc

theorem exec_fetch_waits {n : Nat} (hw : s.wn.toNat = n) (hn : n < 3) :
    exec (fetch s) s = .next (s.decoded (s.w.store (srcByte s s.si) n) (s.wn + 1#3) 1 []) := by
  subst hw
  rw [fetch_sym hc, exec_dSym_waits he hc hn]

theorem exec_fetch_completes (hw : s.wn = 3#3) (hr : s.ti + 3 ≤ s.tcap) :
    exec (fetch s) s = .next
      (s.decoded { s.w with w3 := srcByte s s.si } 0#3 1 (dec4 s.cfg s.w.w0 s.w.w1 s.w.w2 (srcByte s s.si))) := by
  rw [fetch_sym hc, exec_dSym_completes he hc hw hr]

end Fetch

/-- Settles O25: three pushes fill the slots 0 to 2, and the fourth writes the triplet that D.QUAD writes. -/
theorem quadIsFourByteSteps : Obligations.QuadIsFourByteSteps := by
  intro s hq hr
  obtain ⟨-, running, hw, room, sym⟩ := (quadEnabled_iff s).1 hq
  have enabled {w wn n bytes} (hn : n < 4) : byteEnabled (s.decoded w wn n bytes) = true :=
    (byteEnabled_iff _).2 ⟨running, show s.si + n < s.slen by omega⟩
  refine ⟨_, _, _, _,
    exec_fetch_waits (n := 0) ((byteEnabled_iff s).2 ⟨running, by omega⟩) (sym 0 (by decide)) (by simp [hw]) (by decide),
    exec_fetch_waits (n := 1) (enabled (n := 1) (by decide)) (sym 1 (by decide)) ?_ (by decide),
    exec_fetch_waits (n := 2) (enabled (n := 2) (by decide)) (sym 2 (by decide)) ?_ (by decide),
    exec_fetch_completes (enabled (n := 3) (by decide)) (sym 3 (by decide)) ?_ hr, rfl, ?_⟩
  · simp [State.decoded, hw]
  · simp [State.decoded, hw]
  · simp [State.decoded, hw]
  · rw [exec_dQuad hq hr, hw]
    rfl

/-! ## The steps that end the command -/

/-- s with bytes written at TI, the window empty, and the command DONE: RESULT is the new TI and TGT is cut there. -/
def State.endedWith (s : State) (bytes : List Byte) : State :=
  { s with
    wn := 0#3, ti := s.ti + bytes.length, result := s.ti + bytes.length, status := .done
    tgt := keepBelow (writeBytes s.tgt s.ti bytes) (s.ti + bytes.length) }

theorem readCell_endedWith_below {s : State} (bytes : List Byte) {i : Nat} (h : i < s.ti) :
    readCell (s.endedWith bytes).tgt i = readCell s.tgt i := by
  have inside : i < s.ti + bytes.length := by omega
  rw [State.endedWith, readCell_keepBelow, if_pos inside, readCell_writeBytes_outside _ _ _ _ (.inl h)]

theorem readCell_endedWith_written {s : State} {bytes : List Byte} {k : Nat} (h : k < bytes.length) :
    readCell (s.endedWith bytes).tgt (s.ti + k) = bytes[k]? := by
  have inside : s.ti + k < s.ti + bytes.length := by omega
  rw [State.endedWith, readCell_keepBelow, if_pos inside, readCell_writeBytes_inside _ _ _ _ h]

theorem readCell_endedWith_beyond {s : State} {bytes : List Byte} {i : Nat} (h : s.ti + bytes.length ≤ i) :
    readCell (s.endedWith bytes).tgt i = none := by
  rw [State.endedWith, readCell_keepBelow, if_neg (by omega)]

/-- The last bytes of a command and its end, in bounds. -/
theorem emit_finish {s : State} {bytes : List Byte} (hs : s.si ≤ s.slen) (hr : s.ti + bytes.length ≤ s.tcap) :
    emit bytes finish { s with wn := 0#3 } = s.endedWith bytes := by
  have fits : ({ s with wn := 0#3 } : State).ti + bytes.length ≤ s.tcap := hr
  rw [emit_fits fits]
  exact finish_done hs hr

theorem finish_eq_endedWith {s : State} (hs : s.si ≤ s.slen) (hr : s.ti ≤ s.tcap) :
    finish { s with wn := 0#3 } = s.endedWith [] :=
  finish_done hs hr

section Tails
variable {s : State} (running : decodeRunning s = true) (hs : s.si = s.slen)
include running hs

theorem tailEnabled_of_exhausted : tailEnabled s = true := (tailEnabled_iff s).2 ⟨running, hs.ge⟩

theorem exec_dTail0 (hw : s.wn = 0#3) (hr : s.ti ≤ s.tcap) : exec .dTail0 s = .next (s.endedWith []) := by
  have same : s = { s with wn := 0#3 } := by rw [← hw]
  rw [← finish_eq_endedWith hs.le hr, ← same]
  exact if_pos (by simp [tailEnabled_of_exhausted running hs, hw])

theorem exec_dTail1 (hw : s.wn = 1#3) :
    exec .dTail1 s = .next (if s.flags.silent then finish { s with wn := 0#3 } else raise .truncated s) :=
  if_pos (by simp [tailEnabled_of_exhausted running hs, hw])

theorem exec_dTail1_silent (hw : s.wn = 1#3) (silent : s.flags.silent = true) (hr : s.ti ≤ s.tcap) :
    exec .dTail1 s = .next (s.endedWith []) := by
  rw [exec_dTail1 running hs hw, if_pos silent, finish_eq_endedWith hs.le hr]

theorem exec_dTail1_loud (hw : s.wn = 1#3) (loud : s.flags.silent = false) :
    exec .dTail1 s = .next (raise .truncated s) := by
  simp [exec_dTail1 running hs hw, loud]

theorem exec_dTail2 (hw : s.wn = 2#3) (hr : s.ti + 1 ≤ s.tcap) :
    exec .dTail2 s = .next (s.endedWith (dec2 s.cfg s.w.w0 s.w.w1)) := by
  rw [← emit_finish hs.le (bytes := dec2 s.cfg s.w.w0 s.w.w1) hr]
  exact if_pos (by simp [tailEnabled_of_exhausted running hs, hw])

theorem exec_dTail3 (hw : s.wn = 3#3) (hr : s.ti + 2 ≤ s.tcap) :
    exec .dTail3 s = .next (s.endedWith (dec3 s.cfg s.w.w0 s.w.w1 s.w.w2)) := by
  rw [← emit_finish hs.le (bytes := dec3 s.cfg s.w.w0 s.w.w1 s.w.w2) hr]
  exact if_pos (by simp [tailEnabled_of_exhausted running hs, hw])

end Tails

/-- Settles O26. -/
theorem tailWithoutSymbolEnds : Obligations.TailWithoutSymbolEnds := fun s running hs hw hr =>
  ⟨_, exec_dTail0 running hs hw hr, by rw [State.endedWith, ← hw]; rfl, targetCutAt_of_keepBelow rfl⟩

/-- Settles O27: the two values of SILENT. -/
theorem loneSymbolRaisesOrDrops : Obligations.LoneSymbolRaisesOrDrops := fun s running hs hw =>
  ⟨fun loud => ⟨_, exec_dTail1_loud running hs hw loud, raise_errorEntry .truncated s⟩,
   fun silent hr => ⟨_, exec_dTail1_silent running hs hw silent hr, rfl, targetCutAt_of_keepBelow rfl⟩⟩

/-- Settles O28: the byte written is the first one of 41 R165's formulas. -/
theorem twoSymbolTailWritesByte : Obligations.TwoSymbolTailWritesByte := by
  intro s running hs hw hr
  refine ⟨_, exec_dTail2 running hs hw hr, rfl, fun h0 h1 => ?_, fun i hi => ?_⟩
  · refine (readCell_endedWith_written (k := 0) (by simp)).trans ?_
    rw [dec2_of_sym h0 h1]
    rfl
  · split
    · exact readCell_endedWith_below _ ‹_›
    · exact readCell_endedWith_beyond (by simp; omega)

/-- Settles O29: the two bytes written are the first two of 41 R165's formulas. -/
theorem threeSymbolTailWritesBytes : Obligations.ThreeSymbolTailWritesBytes := by
  intro s running hs hw hr
  refine ⟨_, exec_dTail3 running hs hw hr, rfl, fun h0 h1 h2 => ⟨?_, ?_⟩, fun i hi hi' => ?_⟩
  · refine (readCell_endedWith_written (k := 0) (by simp)).trans ?_
    rw [dec3_of_sym h0 h1 h2]
    rfl
  · refine (readCell_endedWith_written (k := 1) (by simp)).trans ?_
    rw [dec3_of_sym h0 h1 h2]
    rfl
  · split
    · exact readCell_endedWith_below _ ‹_›
    · exact readCell_endedWith_beyond (by simp; omega)

end Sys2Proof.Machine
end

section
/-! PROOFS. A DECODE command computes the function of 41 R191. Each step of the engine consumes source bytes, completes some
whole quartets and leaves fewer than four symbols in the window: one lemma says that DecodeTracks is kept then, and D.SYM,
D.SKIP, D.ILL and D.QUAD are its instances. The run is an induction over the source bytes left. -/

namespace Sys2Proof.Machine

/-! ## The decode function on whole quartets -/

theorem decodeOutput_append {c : Config} {quartets : List Byte} (whole : quartets.length % 4 = 0) (rest : List Byte) :
    decodeOutput c (quartets ++ rest) = decodeOutput c quartets ++ decodeOutput c rest := by
  induction quartets using decodeOutput.induct with
  | case1 b0 b1 b2 b3 more ih => simp [decodeOutput, ih ((Nat.add_mod_right ..).symm.trans whole)]
  | case2 | case3 | case4 => simp at whole
  | case5 => rfl

theorem decodeOutput_length {c : Config} {quartets : List Byte} (whole : quartets.length % 4 = 0) :
    (decodeOutput c quartets).length = 3 * (quartets.length / 4) := by
  induction quartets using decodeOutput.induct with
  | case1 b0 b1 b2 b3 more ih =>
    have more_whole : more.length % 4 = 0 := (Nat.add_mod_right ..).symm.trans whole
    simp only [decodeOutput, tripletOf, List.length_append, List.length_cons, List.length_nil, ih more_whole]
    omega
  | case2 | case3 | case4 => simp at whole
  | case5 => rfl

theorem decodeOutput_quartet {c : Config} {b0 b1 b2 b3 : Byte} (h0 : classOf c b0 = .sym) (h1 : classOf c b1 = .sym)
    (h2 : classOf c b2 = .sym) (h3 : classOf c b3 = .sym) : decodeOutput c [b0, b1, b2, b3] = dec4 c b0 b1 b2 b3 := by
  rw [dec4_of_sym h0 h1 h2 h3]
  exact List.append_nil _

/-! ## The source bytes, the symbols of a list, and the window -/

/-- The n source bytes from SI on. -/
def nextBytes (s : State) (n : Nat) : List Byte := (List.range n).map (fun k => srcByte s (s.si + k))

theorem sourcePrefix_si_add (s : State) (n : Nat) : sourcePrefix s (s.si + n) = sourcePrefix s s.si ++ nextBytes s n := by
  simp [sourcePrefix, nextBytes, List.range_add]

theorem symbolsOf_append (c : Config) (xs ys : List Byte) : symbolsOf c (xs ++ ys) = symbolsOf c xs ++ symbolsOf c ys :=
  List.filter_append ..

theorem hasIllegal_append (c : Config) (xs ys : List Byte) : hasIllegal c (xs ++ ys) = (hasIllegal c xs || hasIllegal c ys) :=
  List.any_append

theorem symbolsOf_of_sym {c : Config} {bytes : List Byte} (h : ∀ b ∈ bytes, classOf c b = .sym) : symbolsOf c bytes = bytes :=
  List.filter_eq_self.2 fun b hb => by simp [h b hb]

theorem hasIllegal_of_sym {c : Config} {bytes : List Byte} (h : ∀ b ∈ bytes, classOf c b = .sym) :
    hasIllegal c bytes = false :=
  List.any_eq_false.2 fun b hb => by simp [h b hb]

theorem symbolsOf_single_other {c : Config} {b : Byte} (h : classOf c b ≠ .sym) : symbolsOf c [b] = [] := by
  simp [symbolsOf, h]

theorem hasIllegal_single_legal {c : Config} {b : Byte} (h : classOf c b ≠ .ill) : hasIllegal c [b] = false := by
  simp [hasIllegal, h]

/-- An illegal byte of the source is seen. -/
theorem hasIllegal_of_srcByte {s : State} {i n : Nat} (hi : i < n) (h : classOf s.cfg (srcByte s i) = .ill) :
    hasIllegal s.cfg (sourcePrefix s n) = true :=
  List.any_eq_true.2 ⟨_, List.mem_map.2 ⟨i, List.mem_range.2 hi, rfl⟩, by simp [h]⟩

theorem windowSymbols_length {s : State} (h : s.wn.toNat ≤ 3) : (windowSymbols s).length = s.wn.toNat := by
  simp [windowSymbols]
  omega

theorem windowSymbols_zero {s : State} (h : s.wn = 0#3) : windowSymbols s = [] := by rw [windowSymbols, h]; rfl
theorem windowSymbols_one {s : State} (h : s.wn = 1#3) : windowSymbols s = [s.w.w0] := by rw [windowSymbols, h]; rfl
theorem windowSymbols_two {s : State} (h : s.wn = 2#3) : windowSymbols s = [s.w.w0, s.w.w1] := by
  rw [windowSymbols, h]; rfl
theorem windowSymbols_three {s : State} (h : s.wn = 3#3) : windowSymbols s = [s.w.w0, s.w.w1, s.w.w2] := by
  rw [windowSymbols, h]; rfl

/-- The four counts of a window. -/
theorem windowCount_cases {n : BitVec 3} (h : n.toNat ≤ 3) : n = 0#3 ∨ n = 1#3 ∨ n = 2#3 ∨ n = 3#3 := by bv_omega

/-- A push that waits puts its byte behind the window's symbols. -/
theorem windowSymbols_push {s : State} (b : Byte) (h : s.wn.toNat < 3) :
    windowSymbols (s.decoded (s.w.store b s.wn.toNat) (s.wn + 1#3) 1 []) = windowSymbols s ++ [b] := by
  obtain hw | hw | hw | hw := windowCount_cases h.le
  · simp [windowSymbols, State.decoded, Window.store, hw]
  · simp [windowSymbols, State.decoded, Window.store, hw]
  · simp [windowSymbols, State.decoded, Window.store, hw]
  · simp [hw] at h

/-! ## TGT as far as it is written -/

theorem targetPrefix_append {s t : State} {a : Nat} {bytes : List Byte}
    (below : ∀ i, i < a → readCell t.tgt i = readCell s.tgt i)
    (written : ∀ k, k < bytes.length → readCell t.tgt (a + k) = bytes[k]?) :
    targetPrefix t (a + bytes.length) = targetPrefix s a ++ bytes.map some := by
  have old : (List.range a).map (readCell t.tgt) = (List.range a).map (readCell s.tgt) :=
    List.map_congr_left fun i hi => below i (List.mem_range.1 hi)
  have new : (List.range bytes.length).map (fun k => readCell t.tgt (a + k)) = bytes.map some := by
    apply List.ext_getElem (by simp)
    intro k hk _
    have hk : k < bytes.length := by simpa using hk
    simp [written k hk, hk]
  rw [targetPrefix, targetPrefix, List.range_add, List.map_append, List.map_map, old, ← new]
  rfl

theorem targetPrefix_decoded (s : State) (w : Window) (wn : BitVec 3) (n : Nat) (bytes : List Byte) :
    targetPrefix (s.decoded w wn n bytes) (s.ti + bytes.length) = targetPrefix s s.ti ++ bytes.map some :=
  targetPrefix_append (fun _ hi => readCell_writeBytes_outside _ _ _ _ (.inl hi))
    (fun _ hk => readCell_writeBytes_inside _ _ _ _ hk)

theorem targetPrefix_endedWith (s : State) (bytes : List Byte) :
    targetPrefix (s.endedWith bytes) (s.ti + bytes.length) = targetPrefix s s.ti ++ bytes.map some :=
  targetPrefix_append (fun _ hi => readCell_endedWith_below bytes hi) (fun _ hk => readCell_endedWith_written hk)

/-! ## A step that consumes bytes keeps the engine on the function -/

/-- The engine stays on 41 R191's function if the window and the symbols consumed are the quartets completed and the new
window, the bytes written are the output of these quartets, and no illegal byte is passed without SILENT. -/
theorem decodeTracks_decoded {s : State} {w : Window} {wn : BitVec 3} {n : Nat} {quartets : List Byte}
    (running : decodeRunning s = true) (tracks : DecodeTracks s) (whole : quartets.length % 4 = 0)
    (symbols : windowSymbols s ++ symbolsOf s.cfg (nextBytes s n)
      = quartets ++ windowSymbols (s.decoded w wn n (decodeOutput s.cfg quartets)))
    (legal : s.flags.silent = false → hasIllegal s.cfg (nextBytes s n) = false) :
    DecodeTracks (s.decoded w wn n (decodeOutput s.cfg quartets)) := by
  intro _
  obtain ⟨⟨before, consumed, before_whole, output⟩, passed⟩ := tracks running
  have source : sourcePrefix (s.decoded w wn n (decodeOutput s.cfg quartets)) (s.si + n)
      = sourcePrefix s s.si ++ nextBytes s n := sourcePrefix_si_add s n
  refine ⟨⟨before ++ quartets, ?_, ?_, ?_⟩, fun loud => ?_⟩
  · calc symbolsOf s.cfg (sourcePrefix (s.decoded w wn n (decodeOutput s.cfg quartets)) (s.si + n))
        = before ++ (windowSymbols s ++ symbolsOf s.cfg (nextBytes s n)) := by
          rw [source, symbolsOf_append, consumed, List.append_assoc]
      _ = before ++ quartets ++ windowSymbols (s.decoded w wn n (decodeOutput s.cfg quartets)) := by
          rw [symbols, List.append_assoc]
  · rw [List.length_append]
    omega
  · calc targetPrefix (s.decoded w wn n (decodeOutput s.cfg quartets)) (s.ti + (decodeOutput s.cfg quartets).length)
        = (decodeOutput s.cfg before).map some ++ (decodeOutput s.cfg quartets).map some := by
          rw [targetPrefix_decoded, output]
      _ = (decodeOutput s.cfg (before ++ quartets)).map some := by
          rw [decodeOutput_append before_whole, List.map_append]
  · show hasIllegal s.cfg (sourcePrefix (s.decoded w wn n (decodeOutput s.cfg quartets)) (s.si + n)) = false
    rw [source, hasIllegal_append, passed loud, legal loud]
    rfl

/-! ## The step of a running DECODE (41 R161) -/

theorem fetch_skip {s : State} (h : classOf s.cfg (srcByte s s.si) = .skip) : fetch s = .dSkip (srcByte s s.si) := by
  rw [fetch, decodeByte, h]

theorem fetch_ill {s : State} (h : classOf s.cfg (srcByte s s.si) = .ill) : fetch s = .dIll (srcByte s s.si) := by
  rw [fetch, decodeByte, h]

section Steps
variable {s : State} (running : decodeRunning s = true) (alone : s.hostIn = [])
include running alone

theorem step_decode : step s = makeMove (decodeMove s) := by
  obtain ⟨busy, decode, -⟩ := (decodeRunning_iff s).1 running
  rw [step_eq_makeMove, nextMove_alone alone, blockMove_decode busy decode]

theorem step_decode_inside (hs : s.si < s.slen) :
    step s = if quadEnabled s then exec .dQuad s else exec (fetch s) s := by
  obtain ⟨-, -, sized⟩ := (decodeRunning_iff s).1 running
  rw [step_decode running alone, decodeMove, if_neg (by simp [sized]), if_pos hs, apply_ite makeMove]
  rfl

theorem step_decode_tail (hs : s.si = s.slen) :
    (s.wn = 0#3 → step s = exec .dTail0 s) ∧ (s.wn = 1#3 → step s = exec .dTail1 s)
      ∧ (s.wn = 2#3 → step s = exec .dTail2 s) ∧ (s.wn = 3#3 → step s = exec .dTail3 s) := by
  obtain ⟨-, -, sized⟩ := (decodeRunning_iff s).1 running
  rw [step_decode running alone]
  refine ⟨fun hw => ?_, fun hw => ?_, fun hw => ?_, fun hw => ?_⟩
  all_goals simp [decodeMove, makeMove, sized, hs, hw]

end Steps

/-! ## The running command -/

/-- A DECODE past its size check, left to run, that is on 41 R191's function. -/
structure DecodeLoop (s : State) : Prop where
  running : decodeRunning s = true
  alone : s.hostIn = []
  clean : s.errcode = .none
  count : s.wn.toNat ≤ 3
  inSource : s.si ≤ s.slen
  room : deccap s.slen ≤ s.tcap
  tracks : DecodeTracks s

/-- t is a state of the same command with more source bytes consumed. -/
def DecodeAdvances (s t : State) : Prop :=
  DecodeLoop t ∧ ∃ w wn n bytes, 0 < n ∧ t = s.decoded w wn n bytes

/-- t is the end that 41 R191 gives the DECODE that runs in s. -/
def DecodeEnds (s t : State) : Prop :=
  let source := sourcePrefix s s.slen
  let symbols := symbolsOf s.cfg source
  t.src = s.src
    ∧ if s.flags.silent = false ∧ hasIllegal s.cfg source = true then t.status = .error ∧ t.errcode = .corrupt
      else if s.flags.silent = false ∧ symbols.length % 4 = 1 then t.status = .error ∧ t.errcode = .truncated
      else t.status = .done ∧ t.errcode = .none ∧ t.result = (decodeOutput s.cfg symbols).length
        ∧ targetPrefix t t.result = (decodeOutput s.cfg symbols).map some

theorem decodeEnds_corrupt {s : State} (loud : s.flags.silent = false)
    (illegal : hasIllegal s.cfg (sourcePrefix s s.slen) = true) : DecodeEnds s (raise .corrupt s) := by
  refine ⟨rfl, ?_⟩
  rw [if_pos ⟨loud, illegal⟩]
  exact ⟨rfl, rfl⟩

/-- The capacity 44 R273 asks for holds m triplets if a quartet has begun or is complete for each. -/
theorem deccap_holds {m n : Nat} (h : 4 * m ≤ n + 3) : 3 * m ≤ deccap n := by
  unfold deccap ceilDiv
  omega

namespace DecodeLoop
variable {s : State} (h : DecodeLoop s)
include h

/-- Where TI stands: m quartets are written, and they and the window come from the bytes consumed (41 R190). -/
theorem place : ∃ m, s.ti = 3 * m ∧ 4 * m + s.wn.toNat ≤ s.si := by
  obtain ⟨⟨quartets, consumed, whole, output⟩, -⟩ := h.tracks h.running
  have written : s.ti = 3 * (quartets.length / 4) := by
    simpa [targetPrefix, decodeOutput_length whole] using congrArg List.length output
  have symbols : quartets.length + s.wn.toNat ≤ s.si := by
    calc quartets.length + s.wn.toNat = (symbolsOf s.cfg (sourcePrefix s s.si)).length := by
          rw [consumed, List.length_append, windowSymbols_length h.count]
      _ ≤ (sourcePrefix s s.si).length := List.length_filter_le ..
      _ = s.si := by simp [sourcePrefix]
  exact ⟨quartets.length / 4, written, by omega⟩

theorem window_sym {b : Byte} (hb : b ∈ windowSymbols s) : classOf s.cfg b = .sym := by
  obtain ⟨⟨quartets, consumed, -, -⟩, -⟩ := h.tracks h.running
  have mem : b ∈ symbolsOf s.cfg (sourcePrefix s s.si) := consumed ▸ List.mem_append_right quartets hb
  simpa using (List.mem_filter.1 mem).2

theorem ti_le_tcap : s.ti ≤ s.tcap := by
  obtain ⟨m, hti, hsi⟩ := h.place
  have inSource := h.inSource
  have fits : 3 * m ≤ deccap s.slen := deccap_holds (by omega)
  exact hti ▸ fits.trans h.room

/-- There is room for one triplet more while a byte is left or a symbol waits (41 R190). -/
theorem room_for_triplet (more : s.si < s.slen ∨ s.wn ≠ 0#3) : s.ti + 3 ≤ s.tcap := by
  obtain ⟨m, hti, hsi⟩ := h.place
  have inSource := h.inSource
  have begun : 4 * m < s.slen := by
    obtain hs | hw := more
    · omega
    · have : 0 < s.wn.toNat := by bv_omega
      omega
  have fits : 3 * (m + 1) ≤ deccap s.slen := deccap_holds (by omega)
  have room := h.room
  omega

/-- The instances of decodeTracks_decoded are states of the running command again. -/
theorem advances {w : Window} {wn : BitVec 3} {n : Nat} {quartets : List Byte} (count : wn.toNat ≤ 3) (pos : 0 < n)
    (inSource : s.si + n ≤ s.slen) (whole : quartets.length % 4 = 0)
    (symbols : windowSymbols s ++ symbolsOf s.cfg (nextBytes s n)
      = quartets ++ windowSymbols (s.decoded w wn n (decodeOutput s.cfg quartets)))
    (legal : s.flags.silent = false → hasIllegal s.cfg (nextBytes s n) = false) :
    DecodeAdvances s (s.decoded w wn n (decodeOutput s.cfg quartets)) :=
  ⟨⟨h.running, h.alone, h.clean, count, inSource, h.room,
      decodeTracks_decoded h.running h.tracks whole symbols legal⟩, w, wn, n, _, pos, rfl⟩

/-! ### The BYTE step and D.QUAD -/

theorem byteEnabled_inside (hs : s.si < s.slen) : byteEnabled s = true := (byteEnabled_iff s).2 ⟨h.running, hs⟩

theorem exec_sym_advances (hs : s.si < s.slen) (hc : classOf s.cfg (srcByte s s.si) = .sym) :
    ∃ t, exec (fetch s) s = .next t ∧ DecodeAdvances s t := by
  have enabled := h.byteEnabled_inside hs
  have sym : ∀ b ∈ nextBytes s 1, classOf s.cfg b = .sym := by simpa [nextBytes] using hc
  have count := h.count
  obtain waits | completes : s.wn.toNat < 3 ∨ s.wn = 3#3 := by bv_omega
  · refine ⟨_, exec_fetch_waits enabled hc rfl waits,
      h.advances (quartets := []) (by bv_omega) one_pos hs rfl ?_ fun _ => hasIllegal_of_sym sym⟩
    rw [symbolsOf_of_sym sym]
    exact (windowSymbols_push _ waits).symm
  · have window := windowSymbols_three completes
    have output := decodeOutput_quartet (h.window_sym (b := s.w.w0) (by simp [window]))
      (h.window_sym (b := s.w.w1) (by simp [window])) (h.window_sym (b := s.w.w2) (by simp [window])) hc
    refine ⟨_, exec_fetch_completes enabled hc completes (h.room_for_triplet (.inl hs)), output ▸
      h.advances (quartets := [s.w.w0, s.w.w1, s.w.w2, srcByte s s.si]) (by decide) one_pos hs (by simp) ?_
        fun _ => hasIllegal_of_sym sym⟩
    rw [symbolsOf_of_sym sym, window, windowSymbols_zero rfl]
    rfl

/-- A byte that is no symbol is passed over, an illegal one only with SILENT. -/
theorem skipByte_advances (hs : s.si < s.slen) (hc : classOf s.cfg (srcByte s s.si) ≠ .sym)
    (hill : s.flags.silent = false → classOf s.cfg (srcByte s s.si) ≠ .ill) : DecodeAdvances s (skipByte s) := by
  refine h.advances (w := s.w) (wn := s.wn) (quartets := []) h.count one_pos hs rfl ?_
    fun loud => hasIllegal_single_legal (hill loud)
  exact (congrArg (windowSymbols s ++ ·) (symbolsOf_single_other hc)).trans (List.append_nil _)

theorem exec_dQuad_advances (hq : quadEnabled s = true) : ∃ t, exec .dQuad s = .next t ∧ DecodeAdvances s t := by
  obtain ⟨-, -, hw, four, hc⟩ := (quadEnabled_iff s).1 hq
  have sym : ∀ b ∈ nextBytes s 4, classOf s.cfg b = .sym := by simpa [nextBytes] using hc
  have output : decodeOutput s.cfg (nextBytes s 4) = _ :=
    decodeOutput_quartet (hc 0 (by decide)) (hc 1 (by decide)) (hc 2 (by decide)) (hc 3 (by decide))
  refine ⟨_, exec_dQuad hq (h.room_for_triplet (.inl (by omega))), output ▸
    h.advances h.count (by decide) four (by simp [nextBytes]) ?_ fun _ => hasIllegal_of_sym sym⟩
  rw [symbolsOf_of_sym sym, windowSymbols_zero hw, windowSymbols_zero (s := s.decoded ..) hw, List.append_nil]
  rfl

theorem step_inside (hs : s.si < s.slen) : ∃ t, step s = .next t ∧ (DecodeAdvances s t ∨ DecodeEnds s t) := by
  by_cases hq : quadEnabled s = true
  case pos =>
    obtain ⟨t, made, advances⟩ := h.exec_dQuad_advances hq
    exact ⟨t, (step_decode_inside h.running h.alone hs).trans ((if_pos hq).trans made), .inl advances⟩
  have step_fetch := (step_decode_inside h.running h.alone hs).trans (if_neg hq)
  have enabled := h.byteEnabled_inside hs
  cases hc : classOf s.cfg (srcByte s s.si) with
  | sym =>
    obtain ⟨t, made, advances⟩ := h.exec_sym_advances hs hc
    exact ⟨t, step_fetch.trans made, .inl advances⟩
  | skip =>
    refine ⟨skipByte s, ?_, .inl (h.skipByte_advances hs (by simp [hc]) (by simp [hc]))⟩
    rw [step_fetch, fetch_skip hc, exec_dSkip enabled hc]
  | ill =>
    rw [step_fetch, fetch_ill hc, exec_dIll enabled hc]
    refine ⟨_, rfl, ?_⟩
    cases loud : s.flags.silent with
    | true => exact .inl (h.skipByte_advances hs (by simp [hc]) (by simp [loud]))
    | false => exact .inr (decodeEnds_corrupt loud (hasIllegal_of_srcByte hs hc))

/-! ### The TAIL step -/

/-- At the end of the source the symbols are some whole quartets, written, and the window's. -/
theorem symbols_at_end (hs : s.si = s.slen) : ∃ quartets, quartets.length % 4 = 0
    ∧ symbolsOf s.cfg (sourcePrefix s s.slen) = quartets ++ windowSymbols s
    ∧ targetPrefix s s.ti = (decodeOutput s.cfg quartets).map some := by
  obtain ⟨⟨quartets, consumed, whole, output⟩, -⟩ := h.tracks h.running
  exact ⟨quartets, whole, hs ▸ consumed, output⟩

theorem symbols_length_at_end (hs : s.si = s.slen) :
    (symbolsOf s.cfg (sourcePrefix s s.slen)).length % 4 = s.wn.toNat := by
  obtain ⟨quartets, whole, symbols, -⟩ := h.symbols_at_end hs
  have := h.count
  rw [symbols, List.length_append, windowSymbols_length h.count]
  omega

theorem legal_at_end (hs : s.si = s.slen) :
    ¬ (s.flags.silent = false ∧ hasIllegal s.cfg (sourcePrefix s s.slen) = true) := fun ⟨loud, illegal⟩ => by
  rw [← hs, (h.tracks h.running).2 loud] at illegal
  cases illegal

theorem ends_truncated (hs : s.si = s.slen) (hw : s.wn = 1#3) (loud : s.flags.silent = false) :
    DecodeEnds s (raise .truncated s) := by
  have lone : (symbolsOf s.cfg (sourcePrefix s s.slen)).length % 4 = 1 := by rw [h.symbols_length_at_end hs, hw]; rfl
  refine ⟨rfl, ?_⟩
  rw [if_neg (h.legal_at_end hs), if_pos ⟨loud, lone⟩]
  exact ⟨rfl, rfl⟩

/-- The output of the window's symbols ends the output. -/
theorem ends_done (hs : s.si = s.slen) (hw : s.flags.silent = false → s.wn ≠ 1#3) :
    DecodeEnds s (s.endedWith (decodeOutput s.cfg (windowSymbols s))) := by
  obtain ⟨quartets, whole, symbols, output⟩ := h.symbols_at_end hs
  have passes : ¬ (s.flags.silent = false ∧ (symbolsOf s.cfg (sourcePrefix s s.slen)).length % 4 = 1) := by
    rintro ⟨loud, lone⟩
    rw [h.symbols_length_at_end hs] at lone
    exact hw loud (by bv_omega)
  have written : targetPrefix (s.endedWith (decodeOutput s.cfg (windowSymbols s)))
      (s.ti + (decodeOutput s.cfg (windowSymbols s)).length)
      = (decodeOutput s.cfg (symbolsOf s.cfg (sourcePrefix s s.slen))).map some := by
    rw [targetPrefix_endedWith, output, symbols, decodeOutput_append whole, List.map_append]
  have length : s.ti + (decodeOutput s.cfg (windowSymbols s)).length
      = (decodeOutput s.cfg (symbolsOf s.cfg (sourcePrefix s s.slen))).length := by
    simpa [targetPrefix] using congrArg List.length written
  refine ⟨rfl, ?_⟩
  rw [if_neg (h.legal_at_end hs), if_neg passes]
  exact ⟨rfl, h.clean, length, written⟩

theorem step_tail (hs : s.si = s.slen) : ∃ t, step s = .next t ∧ DecodeEnds s t := by
  have running := h.running
  obtain ⟨tail0, tail1, tail2, tail3⟩ := step_decode_tail running h.alone hs
  obtain hw | hw | hw | hw := windowCount_cases h.count
  · have ends := h.ends_done hs (by simp [hw])
    rw [windowSymbols_zero hw] at ends
    exact ⟨_, (tail0 hw).trans (exec_dTail0 running hs hw h.ti_le_tcap), ends⟩
  · rw [tail1 hw]
    cases loud : s.flags.silent with
    | true =>
      have ends := h.ends_done hs (by simp [loud])
      rw [windowSymbols_one hw] at ends
      exact ⟨_, exec_dTail1_silent running hs hw loud h.ti_le_tcap, ends⟩
    | false => exact ⟨_, exec_dTail1_loud running hs hw loud, h.ends_truncated hs hw loud⟩
  · have sym0 := h.window_sym (b := s.w.w0) (by simp [windowSymbols_two hw])
    have sym1 := h.window_sym (b := s.w.w1) (by simp [windowSymbols_two hw])
    have ends := h.ends_done hs (by simp [hw])
    rw [windowSymbols_two hw, decodeOutput, ← dec2_of_sym sym0 sym1] at ends
    have room := h.room_for_triplet (.inr (by simp [hw]))
    exact ⟨_, (tail2 hw).trans (exec_dTail2 running hs hw (by omega)), ends⟩
  · have sym0 := h.window_sym (b := s.w.w0) (by simp [windowSymbols_three hw])
    have sym1 := h.window_sym (b := s.w.w1) (by simp [windowSymbols_three hw])
    have sym2 := h.window_sym (b := s.w.w2) (by simp [windowSymbols_three hw])
    have ends := h.ends_done hs (by simp [hw])
    rw [windowSymbols_three hw, decodeOutput, ← dec3_of_sym sym0 sym1 sym2] at ends
    have room := h.room_for_triplet (.inr (by simp [hw]))
    exact ⟨_, (tail3 hw).trans (exec_dTail3 running hs hw (by omega)), ends⟩

end DecodeLoop

/-! ## The run -/

/-- The end of the command is the same seen from a later state of it. -/
theorem decodeEnds_of_decoded {s t : State} {w : Window} {wn : BitVec 3} {n : Nat} {bytes : List Byte}
    (h : DecodeEnds (s.decoded w wn n bytes) t) : DecodeEnds s t := h

theorem steps_succ {s t : State} (h : step s = .next t) (k : Nat) : steps (k + 1) s = steps k t := by
  rw [steps, h]

/-- One step for each source byte left, at most, and the TAIL step (41 R194). -/
theorem decodeLoop_ends (n : Nat) {s : State} (h : DecodeLoop s) (left : s.slen - s.si ≤ n) :
    ∃ k t, k ≤ n + 1 ∧ steps k s = .next t ∧ DecodeEnds s t := by
  induction n generalizing s with
  | zero =>
    obtain ⟨t, made, ends⟩ := h.step_tail (Nat.le_antisymm h.inSource (by omega))
    exact ⟨1, t, le_rfl, steps_succ made 0, ends⟩
  | succ n ih =>
    obtain hs | hs := h.inSource.eq_or_lt
    · obtain ⟨t, made, ends⟩ := h.step_tail hs
      exact ⟨1, t, by omega, steps_succ made 0, ends⟩
    · obtain ⟨t, made, ⟨loop, w, wn, m, bytes, pos, rfl⟩ | ends⟩ := h.step_inside hs
      · have closer : s.slen - (s.si + m) ≤ n := by omega
        obtain ⟨k, u, bound, run, ends⟩ := ih loop closer
        exact ⟨k + 1, u, by omega, (steps_succ made k).trans run, decodeEnds_of_decoded ends⟩
      · exact ⟨1, t, by omega, steps_succ made 0, ends⟩

/-- A DECODE that has passed its size check and consumed nothing. -/
theorem decodeLoop_start {s : State} (alone : s.hostIn = []) (room : deccap s.slen ≤ s.tcap) :
    DecodeLoop { commandStart .decode s with sized := true } where
  running := rfl
  alone := alone
  clean := rfl
  count := Nat.zero_le 3
  inSource := Nat.zero_le s.slen
  room := room
  tracks := fun _ => ⟨⟨[], rfl, rfl, rfl⟩, fun _ => rfl⟩

/-- The first step after a DECODE start is the size check (44 R273). -/
theorem step_decode_started {s : State} (alone : s.hostIn = []) :
    step (commandStart .decode s) = .next (sizeCheck (deccap s.slen) (commandStart .decode s)) := by
  rw [step_eq_makeMove, nextMove_alone (s := commandStart .decode s) alone, blockMove_decode rfl rfl]
  rfl

/-- Settles O58: the size check is one step, and what passes it is a DecodeLoop. -/
theorem decodeComputesFunction : Obligations.DecodeComputesFunction := by
  intro s _ _ alone
  have check := step_decode_started alone
  obtain ⟨short, raises⟩ | ⟨room, passes⟩ := sizeCheck_cases (deccap s.slen) (commandStart .decode s)
  · rw [raises] at check
    refine ⟨1, _, by omega, steps_succ check 0, rfl, ?_⟩
    rw [if_pos (show s.tcap < deccap s.slen from short)]
    exact ⟨rfl, rfl⟩
  · rw [passes] at check
    obtain ⟨k, t, bound, run, source, ends⟩ := decodeLoop_ends s.slen (decodeLoop_start alone room) (Nat.sub_le ..)
    refine ⟨k + 1, t, by omega, (steps_succ check k).trans run, source, ?_⟩
    rw [if_neg (show ¬ s.tcap < deccap s.slen from Nat.not_lt.2 room)]
    exact ends

end Sys2Proof.Machine
end

section
/-! PROOFS. Statements of 42_encode_pipeline.md: the steps of the encode engine. A step that writes ends in State.encoded where
its bytes fit: E.BREAK directly, the three quartet steps through emitQuartet. The symbols of a quartet are ALPHA of the slices
of 30 R97; a tail's missing byte is a zero byte, so its slices are zero bits. -/

namespace Sys2Proof.Machine

/-! ## The symbols of a quartet are ALPHA of its slices (30 R97) -/

theorem symbol0_slice (a : Byte) : symbol0 a = alpha (a.extractLsb' 2 6) := by
  have slice : (a >>> 2).setWidth 6 = a.extractLsb' 2 6 := by
    apply BitVec.eq_of_getLsbD_eq
    intro i inside
    simp [inside]
  rw [symbol0, etab0, slice]

/-- The low 6 bits of a window over two bytes (40 R143): low bits of the first byte, then high bits of the second. -/
theorem window_slice (a b : Byte) {hi lo : Nat} (six : hi + lo = 6) :
    ((a.setWidth 12 <<< lo) ||| (b.setWidth 12 >>> (8 - lo))).setWidth (hi + lo)
      = a.extractLsb' 0 hi ++ b.extractLsb' (8 - lo) lo := by
  apply BitVec.eq_of_getLsbD_eq
  intro i inside
  have in12 : i < 12 := by omega
  rw [BitVec.getLsbD_append]
  by_cases low : i < lo
  · have place : 8 - lo + i < 12 := by omega
    simp [inside, in12, low, place]
  · have above : 8 ≤ 8 - lo + i := by omega
    have place : i - lo < hi := by omega
    simp [inside, in12, low, place, BitVec.getLsbD_of_ge b _ above]

theorem symbol1_slice (a b : Byte) : symbol1 a b = alpha (a.extractLsb' 0 2 ++ b.extractLsb' 4 4) :=
  congrArg alpha (window_slice a b (hi := 2) (lo := 4) rfl)

theorem symbol2_slice (b c : Byte) : symbol2 b c = alpha (b.extractLsb' 0 4 ++ c.extractLsb' 6 2) :=
  congrArg alpha (window_slice b c (hi := 4) (lo := 2) rfl)

theorem symbol3_slice (c : Byte) : symbol3 c = alpha (c.extractLsb' 0 6) := by
  have slice : (c.setWidth 12).setWidth 6 = c.extractLsb' 0 6 := by
    rw [BitVec.setWidth_setWidth_of_le _ (by decide), BitVec.setWidth_eq_extractLsb' (by decide)]
  rw [symbol3, etab1, slice]

theorem enc3_slices (a b c : Byte) : enc3 a b c =
    [ alpha (a.extractLsb' 2 6), alpha (a.extractLsb' 0 2 ++ b.extractLsb' 4 4)
    , alpha (b.extractLsb' 0 4 ++ c.extractLsb' 6 2), alpha (c.extractLsb' 0 6) ] := by
  rw [enc3, symbol0_slice, symbol1_slice, symbol2_slice, symbol3_slice]

theorem enc1_slices (a : Byte) :
    enc1 a = [alpha (a.extractLsb' 2 6), alpha (a.extractLsb' 0 2 ++ 0#4), 0x3D#8, 0x3D#8] := by
  rw [enc1, symbol0_slice, symbol1_slice]
  rfl

theorem enc2_slices (a b : Byte) : enc2 a b =
    [ alpha (a.extractLsb' 2 6), alpha (a.extractLsb' 0 2 ++ b.extractLsb' 4 4)
    , alpha (b.extractLsb' 0 4 ++ 0#2), 0x3D#8 ] := by
  rw [enc2, symbol0_slice, symbol1_slice, symbol2_slice]
  rfl

/-! ## The steps that write -/

/-- s with n source bytes consumed, LINE, and bytes written at TI. -/
def State.encoded (s : State) (n : Nat) (line : BitVec 7) (bytes : List Byte) : State :=
  { s with si := s.si + n, line := line, ti := s.ti + bytes.length, tgt := writeBytes s.tgt s.ti bytes }

theorem emitQuartet_fits {quartet : List Byte} {n : Nat} {s : State} (hr : s.ti + quartet.length ≤ s.tcap) :
    emitQuartet quartet n s = s.encoded n (lineAfterQuartet s) quartet := by
  rw [emitQuartet, emit_fits hr]
  rfl

section Steps
variable {s : State} (running : encodeRunning s = true)
include running

theorem exec_eBreak (due : breakDue s = true) :
    exec .eBreak s = .next (emit lineBreak (fun t => { t with line := 0#7 }) s) :=
  if_pos (by simp [running, due])

theorem exec_eGroup (notDue : breakDue s = false) (hs : s.si + 3 ≤ s.slen) :
    exec .eGroup s = .next
      (emitQuartet (enc3 (srcByte s s.si) (srcByte s (s.si + 1)) (srcByte s (s.si + 2))) 3 s) :=
  if_pos (by simp [running, notDue, hs])

theorem exec_eTail1 (notDue : breakDue s = false) (hs : s.slen = s.si + 1) :
    exec .eTail1 s = .next (emitQuartet (enc1 (srcByte s s.si)) 1 s) :=
  if_pos (by simp [running, notDue, hs])

theorem exec_eTail2 (notDue : breakDue s = false) (hs : s.slen = s.si + 2) :
    exec .eTail2 s = .next (emitQuartet (enc2 (srcByte s s.si) (srcByte s (s.si + 1))) 2 s) :=
  if_pos (by simp [running, notDue, hs])

theorem exec_eFinish (hs : s.slen ≤ s.si) : exec .eFinish s = .next (finish s) :=
  if_pos (by simp [running, hs])

theorem exec_eBreak_fits (due : breakDue s = true) (hr : s.ti + 2 ≤ s.tcap) :
    exec .eBreak s = .next (s.encoded 0 0#7 lineBreak) := by
  rw [exec_eBreak running due, emit_fits hr]
  rfl

end Steps

/-- What a quartet step with room does, whatever its quartet and the bytes it consumes. -/
theorem quartetStep_writes {i : Instr} {s : State} {quartet : List Byte} {n : Nat} (four : quartet.length = 4)
    (made : exec i s = .next (emitQuartet quartet n s)) (hr : s.ti + 4 ≤ s.tcap) : ∃ t,
    exec i s = .next t
      ∧ t = { s with si := s.si + n, ti := s.ti + 4, tgt := t.tgt,
                     line := if s.flags.wrap then s.line + 4 else s.line }
      ∧ TargetWritten s t s.ti quartet := by
  rw [← four] at hr ⊢
  rw [emitQuartet_fits hr] at made
  exact ⟨_, made, rfl, targetWritten_of_writeBytes rfl⟩

/-- Settles O32: the quartet step with the quartet of a triplet, in slices. -/
theorem groupWritesQuartet : Obligations.GroupWritesQuartet := by
  intro s running notDue hs hr a b c
  rw [← enc3_slices]
  exact quartetStep_writes rfl (exec_eGroup running notDue hs) hr

/-- Settles O33. -/
theorem breakWritesCrLf : Obligations.BreakWritesCrLf :=
  ⟨breakDue_iff, fun _ running due hr => ⟨_, exec_eBreak_fits running due hr, rfl, targetWritten_of_writeBytes rfl⟩⟩

/-- Settles O34: the quartet step with the quartet of one byte, in slices. -/
theorem oneByteTailPadsTwice : Obligations.OneByteTailPadsTwice := by
  intro s running notDue hs hr a
  rw [← enc1_slices]
  exact quartetStep_writes rfl (exec_eTail1 running notDue hs) hr

/-- Settles O35: the quartet step with the quartet of two bytes, in slices. -/
theorem twoByteTailPadsOnce : Obligations.TwoByteTailPadsOnce := by
  intro s running notDue hs hr a b
  rw [← enc2_slices]
  exact quartetStep_writes rfl (exec_eTail2 running notDue hs) hr

/-! ## The end of the command -/

theorem finish_past_source {s : State} (hs : s.slen < s.si) : finish s = raise .sourceOverflow s := if_pos hs

theorem finish_past_target {s : State} (hs : s.si ≤ s.slen) (hr : s.tcap < s.ti) : finish s = raise .targetOverflow s :=
  (if_neg (Nat.not_lt.2 hs)).trans (if_pos hr)

/-- Settles O36: the two assertions of finish, and its end in bounds. -/
theorem finishEndsEncode : Obligations.FinishEndsEncode := by
  intro s running
  refine ⟨fun hs hr => ⟨_, exec_eFinish running hs.ge, ?_⟩, fun hs => ⟨_, exec_eFinish running hs.le, ?_⟩,
    fun hs hr => ⟨_, exec_eFinish running hs.ge, ?_⟩⟩
  · rw [finish_done hs.le hr]
    exact ⟨rfl, targetCutAt_of_keepBelow rfl⟩
  · rw [finish_past_source hs]
    exact raise_errorEntry .sourceOverflow s
  · rw [finish_past_target hs.le hr]
    exact raise_errorEntry .targetOverflow s

end Sys2Proof.Machine
end

section
/-! PROOFS. Statements of 43_length_calc.md: the length calculator's one step. -/

namespace Sys2Proof.Machine

/-- The formula of 43 R250 with each ceiling as a division. Over the naturals lines - 1 is already max(lines - 1, 0). -/
theorem enclen_formula (n : Nat) (wrap : Bool) :
    let symbols := (n + 2) / 3 * 4
    let lines := (symbols + 75) / 76
    enclen n wrap = if wrap then symbols + max (lines - 1) 0 * 2 else symbols := by
  intro symbols lines
  rw [Nat.max_zero]
  rfl

/-- Where its step is enabled, L.ENCLEN writes RESULT and STATUS alone (43 R251). -/
theorem exec_lEnclen {s : State} (busy : s.status = .busy) (selected : s.opl = .enclen) :
    exec .lEnclen s = .next { s with result := enclen s.slen s.flags.wrap, status := .done } :=
  if_pos (by simp [busy, selected])

/-- Settles O38: the enabled step, with its length by the formula. -/
theorem lengthCommandGivesFormula : Obligations.LengthCommandGivesFormula := by
  intro s busy selected symbols lines
  rw [exec_lEnclen busy selected, enclen_formula]

end Sys2Proof.Machine
end

section
/-! PROOFS. Statements of 44_commands_and_host.md: the start of a command, and NOP. -/

namespace Sys2Proof.Machine

/-! ## The command start (44 R271) -/

section Start
variable {s : State} (free : s.status ≠ .busy)
include free

theorem exec_cmdDecode_starts : exec .cmdDecode s = .next (commandStart .decode s) := if_pos free

theorem exec_cmdEncode_starts : exec .cmdEncode s = .next (commandStart .encode s) := if_pos free

theorem exec_cmdEnclen_starts : exec .cmdEnclen s = .next (commandStart .enclen s) := if_pos free

end Start

/-- Settles O14: commandStart makes the listed changes, and each of the three commands starts with it. -/
theorem commandStartClears : Obligations.CommandStartClears := fun _ free =>
  ⟨exec_cmdDecode_starts free, exec_cmdEncode_starts free, exec_cmdEnclen_starts free⟩

/-! ## NOP (44 R272) -/

/-- Settles O15: the meaning of NOP is to answer the state it is given, and it reads no STATUS. -/
theorem nopChangesNothing : Obligations.NopChangesNothing := fun _ => rfl

end Sys2Proof.Machine
end

section
/-! PROOFS. What an instruction, a host action and a step can do, in any state: one inversion lemma each. The statements that
speak of every instruction or of every step, in any state, are read off them. -/

namespace Sys2Proof.Machine

/-! ## The operations of an engine -/

/-- An engine works from s to t: it writes only W, the indexes, LINE, RESULT, TGT and its own field sized, and the command goes
on or is DONE. -/
structure Works (s t : State) : Prop where
  frame : t = { s with
    w := t.w, wn := t.wn, si := t.si, ti := t.ti, line := t.line, result := t.result, tgt := t.tgt, sized := t.sized
    status := t.status }
  status : t.status = s.status ∨ t.status = .done
  canonical : Memory.wf s.tgt → Memory.wf t.tgt

/-- An operation of an engine works, or raises an error. -/
def Operates (s t : State) : Prop := Works s t ∨ ∃ e, e ≠ .none ∧ t = raise e s

theorem operates_raise {e : ErrCode} (h : e ≠ .none) (s : State) : Operates s (raise e s) := .inr ⟨e, h, rfl⟩

theorem works_refl (s : State) : Works s s := ⟨rfl, .inl rfl, id⟩

/-- What follows some work is an operation as a whole: an error overwrites what the work has written. -/
theorem Works.operates {s u t : State} (work : Works s u) (same : u.sized = s.sized) (next : Operates u t) :
    Operates s t := by
  obtain ⟨frame, status, canonical⟩ := work
  obtain ⟨frame', status', canonical'⟩ | ⟨e, he, rfl⟩ := next
  · exact .inl ⟨frame'.trans (by rw [frame]), status'.elim (fun go => go ▸ status) .inr, canonical' ∘ canonical⟩
  · exact .inr ⟨e, he, by rw [frame, same]; rfl⟩

theorem operates_emit {bytes : List Byte} {goOn : State → State} (h : ∀ u, Operates u (goOn u)) (s : State) :
    Operates s (emit bytes goOn s) := by
  obtain short | fits := Nat.lt_or_ge s.tcap (s.ti + bytes.length)
  · rw [emit_overflows short]
    exact operates_raise (by simp) s
  · rw [emit_fits fits]
    exact Works.operates (u := { s with tgt := writeBytes s.tgt s.ti bytes, ti := s.ti + bytes.length })
      ⟨rfl, .inl rfl, writeBytes_wf _ _ _⟩ rfl (h _)

theorem operates_finish (s : State) : Operates s (finish s) := by
  obtain ⟨_, h⟩ | ⟨_, _, h⟩ | ⟨_, _, h⟩ := finish_cases s
  · exact h ▸ operates_raise (by simp) s
  · exact h ▸ operates_raise (by simp) s
  · exact h ▸ .inl ⟨rfl, .inr rfl, keepBelow_wf _ _⟩

theorem operates_sizeCheck (need : Nat) (s : State) : Operates s (sizeCheck need s) := by
  obtain ⟨_, h⟩ | ⟨_, h⟩ := sizeCheck_cases need s
  · exact h ▸ operates_raise (by simp) s
  · exact h ▸ .inl ⟨rfl, .inl rfl, id⟩

theorem operates_skipByte (s : State) : Operates s (skipByte s) := .inl ⟨rfl, .inl rfl, id⟩

theorem operates_emptied {f : State → State} (h : ∀ u, Operates u (f u)) (s : State) :
    Operates s (f { s with wn := 0#3 }) :=
  Works.operates (u := { s with wn := 0#3 }) ⟨rfl, .inl rfl, id⟩ rfl (h _)

theorem operates_pushSymbol (b : Byte) (s : State) : Operates s (pushSymbol b s) := by
  unfold pushSymbol
  split
  · exact operates_raise (by simp) s
  · dsimp only
    split
    · exact Works.operates (u := { s with w := s.w.store b s.wn.toNat, wn := 0#3, si := s.si + 1 }) ⟨rfl, .inl rfl, id⟩ rfl
        (operates_emit (goOn := id) (fun u => .inl (works_refl u)) _)
    · exact .inl ⟨rfl, .inl rfl, id⟩

theorem operates_emitQuartet (quartet : List Byte) (n : Nat) (s : State) : Operates s (emitQuartet quartet n s) :=
  operates_emit (goOn := fun t => { t with si := t.si + n, line := lineAfterQuartet t }) (fun _ => .inl ⟨rfl, .inl rfl, id⟩) s

/-! ## An instruction -/

/-- What an instruction can do in s: an engine's operation while BUSY; a command start while not; or nothing but to change what
the host does next (NOP and the public forms). -/
inductive Executes (s t : State) : Prop
  | works (busy : s.status = .busy) (work : Works s t)
  | raises (busy : s.status = .busy) (e : ErrCode) (he : e ≠ .none) (ht : t = raise e s)
  | starts (free : s.status ≠ .busy) (op : Op) (hop : op ≠ .nop) (ht : t = commandStart op s)
  | lists (l : List HostAction) (ht : t = s.withHost l)

theorem executes_of_operates {s t : State} (busy : s.status = .busy) (h : Operates s t) : Executes s t := by
  obtain work | ⟨e, he, ht⟩ := h
  · exact .works busy work
  · exact .raises busy e he ht

/-- A step of an engine that answers a next state: its guard holds, so a command is running. -/
theorem guarded_executes {g : Prop} [Decidable g] {s u t : State} {r : Refusal} (busy : g → s.status = .busy)
    (operates : Operates s u)
    (h : (if g then (Host.Outcome.next u : Host.Outcome State Fault Refusal) else .refused r) = .next t) :
    Executes s t := by
  obtain ⟨enabled, rfl⟩ := guarded_next.1 h
  exact executes_of_operates (busy enabled) operates

/-- DECODE and ENCODE: the start, or the size check of the command that runs. -/
theorem sizedCommand_executes {k : Prop} [Decidable k] {s t : State} {op : Op} {need : Nat} {r : Refusal} (hop : op ≠ .nop)
    (h : (if s.status ≠ .busy then (Host.Outcome.next (commandStart op s) : Host.Outcome State Fault Refusal)
      else if k then .next (sizeCheck need s) else .refused r) = .next t) : Executes s t := by
  split_ifs at h with free check
  · cases h
    exact .starts free op hop rfl
  · cases h
    exact executes_of_operates (not_not.1 free) (operates_sizeCheck need s)

theorem expand_next {source : List Byte} {actions : List HostAction} {s t : State} (h : expand source actions s = .next t) :
    t = s.withHost (actions ++ s.hostIn) := by
  unfold expand at h
  split_ifs at h
  cases h
  rfl

theorem busy_of_decodeRunning {s : State} (h : decodeRunning s = true) : s.status = .busy := ((decodeRunning_iff s).1 h).1

theorem busy_of_encodeRunning {s : State} (h : encodeRunning s = true) : s.status = .busy := ((encodeRunning_iff s).1 h).1

theorem busy_of_byteEnabled {s : State} {g : Bool} (h : (byteEnabled s && g) = true) : s.status = .busy :=
  busy_of_decodeRunning ((byteEnabled_iff s).1 (Bool.and_eq_true_iff.1 h).1).1

theorem busy_of_tailEnabled {s : State} {g : Bool} (h : (tailEnabled s && g) = true) : s.status = .busy :=
  busy_of_decodeRunning ((tailEnabled_iff s).1 (Bool.and_eq_true_iff.1 h).1).1

theorem busy_of_encodeStep {s : State} {g : Bool} (h : (encodeRunning s && g) = true) : s.status = .busy :=
  busy_of_encodeRunning (Bool.and_eq_true_iff.1 h).1

theorem busy_of_quartetStep {s : State} {g k : Bool} (h : (encodeRunning s && g && k) = true) : s.status = .busy :=
  busy_of_encodeStep (Bool.and_eq_true_iff.1 h).1

theorem exec_executes {i : Instr} {s t : State} (h : exec i s = .next t) : Executes s t := by
  cases i with
  | dSym b => exact guarded_executes busy_of_byteEnabled (operates_pushSymbol b s) h
  | dSkip b => exact guarded_executes busy_of_byteEnabled (operates_skipByte s) h
  | dIll b =>
    refine guarded_executes busy_of_byteEnabled ?_ h
    split
    · exact operates_skipByte s
    · exact operates_raise (by simp) s
  | dQuad =>
    exact guarded_executes (fun enabled => busy_of_decodeRunning ((quadEnabled_iff s).1 enabled).2.1)
      (operates_emit (goOn := fun t => { t with si := t.si + 4 }) (fun _ => .inl ⟨rfl, .inl rfl, id⟩) s) h
  | dTail0 => exact guarded_executes busy_of_tailEnabled (operates_finish s) h
  | dTail1 =>
    refine guarded_executes busy_of_tailEnabled ?_ h
    split
    · exact operates_emptied operates_finish s
    · exact operates_raise (by simp) s
  | dTail2 => exact guarded_executes busy_of_tailEnabled (operates_emptied (operates_emit operates_finish) s) h
  | dTail3 => exact guarded_executes busy_of_tailEnabled (operates_emptied (operates_emit operates_finish) s) h
  | eBreak =>
    exact guarded_executes busy_of_encodeStep
      (operates_emit (goOn := fun t => { t with line := 0#7 }) (fun _ => .inl ⟨rfl, .inl rfl, id⟩) s) h
  | eGroup => exact guarded_executes busy_of_quartetStep (operates_emitQuartet _ 3 s) h
  | eTail1 => exact guarded_executes busy_of_quartetStep (operates_emitQuartet _ 1 s) h
  | eTail2 => exact guarded_executes busy_of_quartetStep (operates_emitQuartet _ 2 s) h
  | eFinish => exact guarded_executes busy_of_encodeStep (operates_finish s) h
  | lEnclen =>
    obtain ⟨enabled, rfl⟩ := guarded_next.1 h
    exact .works (by simpa using (Bool.and_eq_true_iff.1 enabled).1) ⟨rfl, .inr rfl, id⟩
  | cmdNop => cases h; exact .lists s.hostIn rfl
  | cmdDecode => exact sizedCommand_executes (by simp) h
  | cmdEncode => exact sizedCommand_executes (by simp) h
  | cmdEnclen =>
    obtain ⟨free, rfl⟩ := guarded_next.1 h
    exact .starts free .enclen (by simp) rfl
  | publicDecode source silent => exact .lists _ (expand_next h)
  | publicEncode source wrap => exact .lists _ (expand_next h)

/-- Settles O40: an instruction that ends in ERROR raises. -/
theorem errorEntryOverAllInstructions : Obligations.ErrorEntryOverAllInstructions := by
  intro i s t h before after
  obtain ⟨busy, work⟩ | ⟨_, e, he, rfl⟩ | ⟨_, op, _, rfl⟩ | ⟨l, rfl⟩ := exec_executes h
  · obtain same | done := work.status
    · exact absurd (same.symm.trans after) before
    · cases done.symm.trans after
  · exact ⟨he, raise_errorEntry e s⟩
  · cases after
  · exact absurd after before

/-- Settles O55: no branch of Executes writes SRC or a register of the host, and only a command start counts a run. -/
theorem sourceNeverMutated : Obligations.SourceNeverMutated := by
  intro i s t h
  obtain ⟨_, work⟩ | ⟨_, e, _, rfl⟩ | ⟨free, op, _, rfl⟩ | ⟨l, rfl⟩ := exec_executes h
  · rw [work.frame]
    exact ⟨rfl, rfl, rfl, rfl, rfl, fun _ => ⟨rfl, fun _ => rfl⟩⟩
  · exact ⟨rfl, rfl, rfl, rfl, rfl, fun _ => ⟨rfl, fun _ => rfl⟩⟩
  · exact ⟨rfl, rfl, rfl, rfl, rfl, fun busy => absurd busy free⟩
  · exact ⟨rfl, rfl, rfl, rfl, rfl, fun _ => ⟨rfl, fun _ => rfl⟩⟩

/-! ## A host action -/

/-- What a host action a can do in s: answer a read; write SRC, TGT, FLAGS, SLEN or TCAP while not BUSY; or reset. -/
inductive HostActs (a : HostAction) (s t : State) : Prop
  | answers (replies : List HostReply) (draws : Nat) (ht : t = { s with replies := replies, draws := draws })
  | writes (free : s.status ≠ .busy)
      (ht : t = { s with src := t.src, tgt := t.tgt, flags := t.flags, slen := t.slen, tcap := t.tcap })
      (src : Memory.wf s.src → Memory.wf t.src) (tgt : Memory.wf s.tgt → Memory.wf t.tgt)
      (slen : t.slen = s.slen ∨ t.slen < 2 ^ s.cfg.lenW) (tcap : t.tcap = s.tcap ∨ t.tcap < 2 ^ s.cfg.lenW)
  | resets (ha : a = .reset) (ht : t = hardReset s)

theorem hostActs_none (a : HostAction) (s : State) : HostActs a s s := .answers s.replies s.draws rfl

theorem readReg_answers (a : HostAction) (number : Nat) (s : State) : HostActs a s (readReg number s) := by
  unfold readReg
  split
  · exact .answers _ _ rfl
  · exact .answers _ s.draws rfl

theorem collectResult_answers (a : HostAction) (s : State) : HostActs a s (collectResult s) := by
  unfold collectResult
  split
  · exact .answers _ s.draws rfl
  · exact .answers _ _ rfl

/-- A register write: only FLAGS, SLEN and TCAP take it, and these are guarded while BUSY. -/
theorem writeReg_acts {a : HostAction} {number word : Nat} {s : State} (h : ¬ (s.status = .busy ∧ guardedReg number = true)) :
    HostActs a s (writeReg number word s) := by
  have fits : word % 2 ^ s.cfg.lenW < 2 ^ s.cfg.lenW := Nat.mod_lt _ (Nat.two_pow_pos _)
  unfold writeReg
  split
  · exact .writes (fun busy => h ⟨busy, rfl⟩) rfl id id (.inl rfl) (.inl rfl)
  · exact .writes (fun busy => h ⟨busy, rfl⟩) rfl id id (.inr fits) (.inl rfl)
  · exact .writes (fun busy => h ⟨busy, rfl⟩) rfl id id (.inl rfl) (.inr fits)
  · exact hostActs_none a s

theorem hostAct_acts {a : HostAction} {s t : State} (h : hostAct a s = .next t) : HostActs a s t := by
  cases a with
  | writeSrc start bytes =>
    simp only [hostAct] at h
    split_ifs at h with busy
    cases h
    exact .writes busy rfl (writeBytes_wf _ _ _) id (.inl rfl) (.inl rfl)
  | writeTgt start bytes =>
    simp only [hostAct] at h
    split_ifs at h with busy
    cases h
    exact .writes busy rfl id (writeBytes_wf _ _ _) (.inl rfl) (.inl rfl)
  | writeReg number word =>
    simp only [hostAct] at h
    split_ifs at h with guarded
    cases h
    exact writeReg_acts guarded
  | readReg number => cases h; exact readReg_answers _ number s
  | readTgt i =>
    simp only [hostAct] at h
    split_ifs at h
    cases h
    exact .answers _ _ rfl
  | reset => cases h; exact .resets rfl rfl
  | sizeTarget =>
    simp only [hostAct] at h
    split_ifs at h with busy
    cases h
    exact .writes busy rfl id id (.inl rfl) (.inr (Nat.mod_lt _ (Nat.two_pow_pos _)))
  | collect => cases h; exact collectResult_answers _ s
  | run => cases h; exact hostActs_none _ s
  | wait => cases h; exact hostActs_none _ s
  | publicDecode source silent => cases h; exact hostActs_none _ s
  | publicEncode source wrap => cases h; exact hostActs_none _ s

/-! ## A step -/

/-- Who moves (00 R15): the block, or nobody, or the host with the action at the head of its list. -/
theorem step_source (s : State) : ∃ l,
    step s = makeMove (blockMove (s.withHost l)) ∨ step s = .next (s.withHost l)
      ∨ ∃ a, s.hostIn = a :: l ∧ step s = makeMove (hostMove a (s.withHost l)) := by
  rw [step_eq_makeMove]
  cases hs : s.hostIn with
  | nil => exact ⟨[], .inl (by rw [nextMove_alone hs, withHost_hostIn hs])⟩
  | cons a rest =>
    by_cases run : a = .run
    · exact ⟨rest, .inl (by rw [nextMove_run (run ▸ hs)]; rfl)⟩
    by_cases waits : (a = .wait ∨ a = .collect) ∧ s.status = .busy
    · exact ⟨a :: rest, .inl (by rw [nextMove_waits hs waits.1 waits.2, withHost_hostIn hs])⟩
    by_cases wait : a = .wait
    · refine ⟨rest, .inr (.inl ?_)⟩
      rw [← step_eq_makeMove, step_wait_ends (wait ▸ hs) fun busy => waits ⟨.inl wait, busy⟩]
      rfl
    · refine ⟨rest, .inr (.inr ⟨a, rfl, ?_⟩)⟩
      rw [nextMove_host hs run wait fun collect busy => waits ⟨.inr collect, busy⟩]
      rfl

theorem makeMove_instr_executes {i : Instr} {s t : State} (h : makeMove (.instr i s) = .next t) : Executes s t :=
  exec_executes (i := i) h

/-- The block's move does what an instruction can do. -/
theorem blockMove_executes {s t : State} (h : makeMove (blockMove s) = .next t) : Executes s t := by
  by_cases busy : s.status = .busy
  case neg =>
    rw [blockMove_idle busy] at h
    cases h
    exact .lists s.hostIn rfl
  cases ho : s.opl with
  | nop => simp [blockMove, busy, ho, makeMove] at h
  | decode =>
    rw [blockMove_decode busy ho] at h
    unfold decodeMove at h
    split_ifs at h
    iterate 7 exact makeMove_instr_executes h
    cases h
    exact .raises busy .window (by simp) rfl
  | encode =>
    rw [blockMove_encode busy ho] at h
    unfold encodeMove at h
    split_ifs at h
    all_goals exact makeMove_instr_executes h
  | enclen =>
    rw [blockMove, if_neg (by simp [busy]), ho] at h
    exact makeMove_instr_executes h

theorem expand_busy {source : List Byte} {actions : List HostAction} {s : State} (busy : s.status = .busy) :
    expand source actions s = .refused .hostWriteWhileBusy := if_pos busy

/-- The host's move is an instruction, one that is refused while BUSY, or a host action. -/
theorem hostMove_instr_or_host (a : HostAction) (s : State) :
    (∃ i, hostMove a s = .instr i s ∧ (s.status = .busy → ∀ t, exec i s ≠ .next t)) ∨ hostMove a s = .host a s := by
  have refused {source actions t} (busy : s.status = .busy) : expand source actions s ≠ .next t := by
    rw [expand_busy busy]
    exact nofun
  unfold hostMove
  split
  · split
    · exact .inr rfl
    · exact .inl ⟨_, rfl, fun busy => absurd busy ‹_›⟩
  · exact .inl ⟨_, rfl, fun busy _ => refused busy⟩
  · exact .inl ⟨_, rfl, fun busy _ => refused busy⟩
  · exact .inr rfl

/-- What a step can do: what an instruction can, or the host action at the head of the list. -/
theorem step_executes_or_acts {s t : State} (h : step s = .next t) : ∃ l,
    Executes (s.withHost l) t ∨ ∃ a, s.hostIn = a :: l ∧ HostActs a (s.withHost l) t := by
  obtain ⟨l, hl⟩ := step_source s
  refine ⟨l, ?_⟩
  obtain block | idle | ⟨a, ha, host⟩ := hl
  · exact .inl (blockMove_executes (block ▸ h))
  · cases idle.symm.trans h
    exact .inl (.lists l rfl)
  · obtain ⟨i, instr, -⟩ | act := hostMove_instr_or_host a (s.withHost l)
    · rw [host, instr] at h
      exact .inl (exec_executes h)
    · rw [host, act] at h
      exact .inr ⟨a, ha, hostAct_acts h⟩

/-- Settles O4: every branch keeps the form of both buffers. -/
theorem stepKeepsMemoryCanonical : Obligations.StepKeepsMemoryCanonical := by
  intro s t src tgt h
  obtain ⟨l, exe | ⟨a, _, act⟩⟩ := step_executes_or_acts h
  · obtain ⟨_, work⟩ | ⟨_, e, _, rfl⟩ | ⟨_, op, _, rfl⟩ | ⟨l', rfl⟩ := exe
    · exact ⟨congrArg State.src work.frame ▸ src, work.canonical tgt⟩
    · exact ⟨src, nil_wf⟩
    · exact ⟨src, tgt⟩
    · exact ⟨src, tgt⟩
  · obtain ⟨replies, draws, rfl⟩ | ⟨_, _, srcKept, tgtKept, _, _⟩ | ⟨_, rfl⟩ := act
    · exact ⟨src, tgt⟩
    · exact ⟨srcKept src, tgtKept tgt⟩
    · refine ⟨?_, nil_wf⟩
      rw [hardReset_src]
      split
      · exact src
      · exact nil_wf

/-- Settles O54: an engine's operation ends a command, a start begins one, and of the host's actions only the reset writes
STATUS. -/
theorem statusTransitions : Obligations.StatusTransitions := by
  intro s t h changed
  obtain ⟨l, exe | ⟨a, ha, act⟩⟩ := step_executes_or_acts h
  · obtain ⟨busy, work⟩ | ⟨busy, e, _, rfl⟩ | ⟨free, op, _, rfl⟩ | ⟨l', rfl⟩ := exe
    · exact .inr (.inl ⟨busy, .inl (work.status.resolve_left changed)⟩)
    · exact .inr (.inl ⟨busy, .inr rfl⟩)
    · exact .inl ⟨free, rfl⟩
    · exact absurd rfl changed
  · obtain ⟨replies, draws, rfl⟩ | ⟨_, frame, _, _, _, _⟩ | ⟨reset, rfl⟩ := act
    · exact absurd rfl changed
    · exact absurd (congrArg State.status frame) changed
    · exact .inr (.inr ⟨rfl, l, reset ▸ ha⟩)

/-! ## The move that is chosen is enabled -/

/-- The outcome is not the refusal of a step that is not enabled. -/
def Enabled (o : Host.Outcome State Fault Refusal) : Prop := o ≠ .refused .notEnabled

theorem enabled_of_next {o : Host.Outcome State Fault Refusal} {t : State} (h : o = .next t) : Enabled o := by
  rw [h]
  exact nofun

/-- DECODE and ENCODE refuse only as a write while BUSY. -/
theorem sizedCommand_enabled {g k : Prop} [Decidable g] [Decidable k] (t u : State) :
    Enabled (if g then .next t else if k then .next u else .refused .hostWriteWhileBusy) := by
  split_ifs <;> exact nofun

theorem exec_cmdDecode_enabled (s : State) : Enabled (exec .cmdDecode s) := sizedCommand_enabled _ _

theorem exec_cmdEncode_enabled (s : State) : Enabled (exec .cmdEncode s) := sizedCommand_enabled _ _

theorem exec_cmdEnclen_enabled (s : State) : Enabled (exec .cmdEnclen s) := by
  show Enabled (if s.status ≠ .busy then .next (commandStart .enclen s) else .refused .hostWriteWhileBusy)
  split_ifs <;> exact nofun

theorem decodeCommand_enabled (op : BitVec 2) (s : State) : Enabled (exec (decodeCommand op) s) := by
  unfold decodeCommand
  split_ifs
  · exact nofun
  · exact exec_cmdDecode_enabled s
  · exact exec_cmdEncode_enabled s
  · exact exec_cmdEnclen_enabled s

theorem expand_enabled (source : List Byte) (actions : List HostAction) (s : State) : Enabled (expand source actions s) := by
  unfold expand
  split_ifs <;> exact nofun

theorem hostAct_enabled (a : HostAction) (s : State) : Enabled (hostAct a s) := by
  cases a with
  | writeSrc | writeTgt | writeReg | readTgt | sizeTarget =>
    simp only [hostAct]
    split_ifs <;> exact nofun
  | readReg | reset | collect | run | wait | publicDecode | publicEncode => exact nofun

/-- Before the end of the source the arm of the BYTE step that the source byte selects is enabled. -/
theorem exec_fetch_enabled {s : State} (he : byteEnabled s = true) : Enabled (exec (fetch s) s) := by
  cases hc : classOf s.cfg (srcByte s s.si) with
  | sym => rw [fetch_sym hc]; exact enabled_of_next (exec_dSym he hc)
  | skip => rw [fetch_skip hc]; exact enabled_of_next (exec_dSkip he hc)
  | ill => rw [fetch_ill hc]; exact enabled_of_next (exec_dIll he hc)

section Tail
variable {s : State} (tail : tailEnabled s = true)
include tail

theorem exec_tail0 (hw : s.wn = 0#3) : exec .dTail0 s = .next (finish s) := if_pos (by simp [tail, hw])

theorem exec_tail1 (hw : s.wn = 1#3) :
    exec .dTail1 s = .next (if s.flags.silent then finish { s with wn := 0#3 } else raise .truncated s) :=
  if_pos (by simp [tail, hw])

theorem exec_tail2 (hw : s.wn = 2#3) :
    exec .dTail2 s = .next (emit (dec2 s.cfg s.w.w0 s.w.w1) finish { s with wn := 0#3 }) := if_pos (by simp [tail, hw])

theorem exec_tail3 (hw : s.wn = 3#3) :
    exec .dTail3 s = .next (emit (dec3 s.cfg s.w.w0 s.w.w1 s.w.w2) finish { s with wn := 0#3 }) :=
  if_pos (by simp [tail, hw])

end Tail

/-- At the end of the source the arm of the TAIL step of that window count is enabled. -/
theorem decodeMove_enabled {s : State} (busy : s.status = .busy) (decode : s.opl = .decode) :
    Enabled (makeMove (decodeMove s)) := by
  unfold decodeMove
  split_ifs with unsized inside quad h0 h1 h2 h3
  · exact exec_cmdDecode_enabled s
  · exact enabled_of_next (t := emit _ _ s) (if_pos quad)
  · exact exec_fetch_enabled ((byteEnabled_iff s).2 ⟨(decodeRunning_iff s).2 ⟨busy, decode, by simpa using unsized⟩, inside⟩)
  all_goals
    have tail : tailEnabled s = true :=
      (tailEnabled_iff s).2 ⟨(decodeRunning_iff s).2 ⟨busy, decode, by simpa using unsized⟩, Nat.not_lt.1 inside⟩
  · exact enabled_of_next (exec_tail0 tail h0)
  · exact enabled_of_next (exec_tail1 tail h1)
  · exact enabled_of_next (exec_tail2 tail h2)
  · exact enabled_of_next (exec_tail3 tail h3)
  · exact nofun

/-- The order of 42 R211 leaves each step its own condition. -/
theorem encodeMove_enabled {s : State} (busy : s.status = .busy) (encode : s.opl = .encode) :
    Enabled (makeMove (encodeMove s)) := by
  unfold encodeMove
  split_ifs with unsized due group two one
  · exact exec_cmdEncode_enabled s
  all_goals have running : encodeRunning s = true := (encodeRunning_iff s).2 ⟨busy, encode, by simpa using unsized⟩
  · exact enabled_of_next (exec_eBreak running due)
  all_goals rw [Bool.not_eq_true] at due
  · exact enabled_of_next (exec_eGroup running due group)
  · exact enabled_of_next (exec_eTail2 running due two)
  · exact enabled_of_next (exec_eTail1 running due one)
  · exact enabled_of_next (exec_eFinish running (by omega))

theorem blockMove_enabled (s : State) : Enabled (makeMove (blockMove s)) := by
  by_cases busy : s.status = .busy
  case neg =>
    rw [blockMove_idle busy]
    exact nofun
  cases ho : s.opl with
  | nop =>
    rw [blockMove, if_neg (by simp [busy]), ho]
    exact nofun
  | decode =>
    rw [blockMove_decode busy ho]
    exact decodeMove_enabled busy ho
  | encode =>
    rw [blockMove_encode busy ho]
    exact encodeMove_enabled busy ho
  | enclen =>
    rw [blockMove, if_neg (by simp [busy]), ho]
    exact enabled_of_next (exec_lEnclen busy ho)

theorem hostMove_enabled (a : HostAction) (s : State) : Enabled (makeMove (hostMove a s)) := by
  unfold hostMove
  split
  · split
    · exact hostAct_enabled (.writeReg 0 _) s
    · exact decodeCommand_enabled _ s
  · exact expand_enabled _ _ s
  · exact expand_enabled _ _ s
  · exact hostAct_enabled _ s

/-- Settles O53: whoever moves, the move is enabled where it is chosen. -/
theorem stepChoosesEnabled : Obligations.StepChoosesEnabled := by
  intro s
  obtain ⟨l, block | idle | ⟨a, _, host⟩⟩ := step_source s
  · exact block ▸ blockMove_enabled _
  · exact enabled_of_next idle
  · exact host ▸ hostMove_enabled a _

end Sys2Proof.Machine
end

section
/-! PROOFS. Statements of 43_length_calc.md: what the lengths fit and how they grow (R256, R257). -/

namespace Sys2Proof.Machine

/-- From a bound of 256 on, the encoded length of what is below it is below its double (43 R256). -/
theorem enclen_lt {bound n : Nat} (wrap : Bool) (large : 256 ≤ bound) (h : n < bound) : enclen n wrap < 2 * bound := by
  cases wrap
  all_goals simp only [enclen, ceilDiv, Bool.false_eq_true, if_true, if_false]; omega

theorem deccap_lt {bound n : Nat} (large : 256 ≤ bound) (h : n < bound) : deccap n < bound := by
  unfold deccap ceilDiv
  omega

/-- 00 R8's least LEN_W. -/
theorem le_two_pow_of_eight_le {width : Nat} (h : 8 ≤ width) : 256 ≤ 2 ^ width := Nat.pow_le_pow_right (n := 2) two_pos h

theorem enclen_lt_two_pow {width n : Nat} (wrap : Bool) (h : 8 ≤ width) (hn : n < 2 ^ width) :
    enclen n wrap < 2 ^ (width + 1) := by
  rw [Nat.pow_succ']
  exact enclen_lt wrap (le_two_pow_of_eight_le h) hn

/-- ENCLEN is made of the quartets alone. -/
theorem enclen_congr {m n : Nat} (wrap : Bool) (h : ceilDiv m 3 = ceilDiv n 3) : enclen m wrap = enclen n wrap := by
  rw [enclen, enclen, h]

theorem enclen_mono {m n : Nat} (wrap : Bool) (h : m ≤ n) : enclen m wrap ≤ enclen n wrap := by
  cases wrap
  all_goals simp only [enclen, ceilDiv, Bool.false_eq_true, if_true, if_false]; omega

/-- The two lengths differ by the line breaks. -/
theorem enclen_wrap (n : Nat) : enclen n true = enclen n false + 2 * breaksOf n true := by
  simp only [enclen, breaksOf, Bool.false_eq_true, if_true, if_false]
  omega

/-- The first break comes after 76 symbols, 57 bytes. -/
theorem breaksOf_eq_zero (n : Nat) : breaksOf n true = 0 ↔ n ≤ 57 := by
  simp only [breaksOf, ceilDiv, if_true]
  omega

/-- Settles O39: the bounds, then what the numbers of quartets and of line breaks say. -/
theorem lengthsFitAndGrow : Obligations.LengthsFitAndGrow := by
  refine ⟨fun width n wrap h hn => ⟨enclen_lt_two_pow wrap h hn, deccap_lt (le_two_pow_of_eight_le h) hn⟩,
    fun _ _ wrap h => enclen_mono wrap h, fun k wrap => enclen_congr wrap ?_, fun n => ?_⟩
  · unfold ceilDiv
    omega
  · rw [enclen_wrap, ← breaksOf_eq_zero]
    omega

end Sys2Proof.Machine
end

section
/-! PROOFS. The text of 42 R230 by arithmetic: how many symbols and line breaks are written, where the next ones stand, and
that they fit ENCLEN. -/

namespace Sys2Proof.Machine

/-! ## How many line breaks (43 R250) -/

theorem enclen_eq (n : Nat) (wrap : Bool) : enclen n wrap = 4 * ceilDiv n 3 + 2 * breaksOf n wrap := by
  cases wrap
  all_goals simp only [enclen, breaksOf, Bool.false_eq_true, if_true, if_false]; omega

/-- So many symbols and line breaks are written, and so many symbols stand on the last line: 76 on each line before it. -/
def TextLayout (wrap : Bool) (symbols breaks line : Nat) : Prop :=
  if wrap then symbols = 76 * breaks + line ∧ line ≤ 76 else breaks = 0 ∧ line = 0

namespace TextLayout
variable {wrap : Bool} {symbols breaks line : Nat}

theorem quartet (layout : TextLayout wrap symbols breaks line) (room : wrap = true → line + 4 ≤ 76) :
    TextLayout wrap (symbols + 4) breaks (if wrap then line + 4 else line) := by
  cases wrap
  · exact layout
  · obtain ⟨count, -⟩ := layout
    exact ⟨by simp only [if_true]; omega, room rfl⟩

theorem lineBreak (layout : TextLayout true symbols breaks 76) : TextLayout true symbols (breaks + 1) 0 := by
  obtain ⟨count, -⟩ := layout
  exact ⟨by omega, by decide⟩

/-- While a quartet is to come, no more breaks are written than the encoding has. -/
theorem breaks_le {q n : Nat} (layout : TextLayout wrap (4 * q) breaks line) (more : q < ceilDiv n 3) :
    breaks ≤ breaksOf n wrap := by
  cases wrap
  · exact layout.1.le
  · obtain ⟨count, -⟩ := layout
    simp only [breaksOf, if_true]
    unfold ceilDiv at more ⊢
    omega

/-- With all quartets written the breaks are those of the encoding, if the last line is not empty behind a break. -/
theorem breaks_eq {n : Nat} (layout : TextLayout wrap (4 * ceilDiv n 3) breaks line) (used : line = 0 → breaks = 0) :
    breaks = breaksOf n wrap := by
  cases wrap
  · exact layout.1
  · obtain ⟨count, last⟩ := layout
    rw [breaksOf, if_pos rfl, Nat.mul_comm, count, ceilDiv]
    omega

/-! ## Where a symbol stands (42 R230) -/

theorem symbolPlace_lt (layout : TextLayout wrap symbols breaks line) {j : Nat} (h : j < symbols) :
    symbolPlace wrap j < symbols + 2 * breaks := by
  cases wrap
  · exact Nat.lt_add_right _ h
  · obtain ⟨count, last⟩ := layout
    simp only [symbolPlace, if_true]
    omega

theorem symbolPlace_next (layout : TextLayout wrap symbols breaks line) (room : wrap = true → line + 4 ≤ 76) {r : Nat}
    (h : r < 4) : symbolPlace wrap (symbols + r) = symbols + 2 * breaks + r := by
  cases wrap
  · rw [layout.1]
    rfl
  · obtain ⟨count, -⟩ := layout
    have := room rfl
    simp only [symbolPlace, if_true]
    omega

end TextLayout

/-! ## The quartets of the text -/

/-- Quartet k of the text. -/
def textQuartet (byteAt : Nat → Byte) (n k : Nat) : List Byte := (List.range 4).map fun r => textSymbol byteAt n (4 * k + r)

@[simp] theorem textQuartet_length (byteAt : Nat → Byte) (n k : Nat) : (textQuartet byteAt n k).length = 4 := by
  simp [textQuartet]

theorem textQuartet_getElem? {r : Nat} (byteAt : Nat → Byte) (n k : Nat) (h : r < 4) :
    (textQuartet byteAt n k)[r]? = some (textSymbol byteAt n (4 * k + r)) := by
  simp [textQuartet, h]

/-- The four symbols of quartet k, by the slices of its bytes; a missing byte is zero bits, and a symbol with no source bit at
all is padding. -/
theorem textQuartet_eq (byteAt : Nat → Byte) (n k : Nat) :
    let a := byteAt (3 * k)
    let b := if 3 * k + 1 < n then byteAt (3 * k + 1) else 0#8
    let c := if 3 * k + 2 < n then byteAt (3 * k + 2) else 0#8
    textQuartet byteAt n k =
      [ alpha (a.extractLsb' 2 6), alpha (a.extractLsb' 0 2 ++ b.extractLsb' 4 4)
      , if 3 * k + 1 < n then alpha (b.extractLsb' 0 4 ++ c.extractLsb' 6 2) else 0x3D#8
      , if 3 * k + 2 < n then alpha (c.extractLsb' 0 6) else 0x3D#8 ] := by
  have div (r : Nat) (h : r < 4) : (4 * k + r) / 4 = k := by omega
  simp [textQuartet, List.range_succ, textSymbol, div]

theorem textQuartet_three {byteAt : Nat → Byte} {n k : Nat} (h : 3 * k + 3 ≤ n) :
    textQuartet byteAt n k = enc3 (byteAt (3 * k)) (byteAt (3 * k + 1)) (byteAt (3 * k + 2)) := by
  have h1 : 3 * k + 1 < n := by omega
  have h2 : 3 * k + 2 < n := by omega
  simp only [textQuartet_eq, enc3_slices, h1, h2, if_true]

theorem textQuartet_two {byteAt : Nat → Byte} {n k : Nat} (h : n = 3 * k + 2) :
    textQuartet byteAt n k = enc2 (byteAt (3 * k)) (byteAt (3 * k + 1)) := by
  have h1 : 3 * k + 1 < n := by omega
  have h2 : ¬ 3 * k + 2 < n := by omega
  simp only [textQuartet_eq, enc2_slices, h1, h2, if_true, if_false]
  rfl

theorem textQuartet_one {byteAt : Nat → Byte} {n k : Nat} (h : n = 3 * k + 1) :
    textQuartet byteAt n k = enc1 (byteAt (3 * k)) := by
  have h1 : ¬ 3 * k + 1 < n := by omega
  have h2 : ¬ 3 * k + 2 < n := by omega
  simp only [textQuartet_eq, enc1_slices, h1, h2, if_false]
  rfl

end Sys2Proof.Machine
end

section
/-! PROOFS. The invariant: what the step of a running command can do from a state that meets it. Each engine has a place
(DecodePlace, EncodePlace) that says how far it is and that what is still to come fits the target; one inversion lemma per
engine says that a step advances to such a place again, ends the command in bounds, or rejects the source. -/

namespace Sys2Proof.Machine

/-! ## The place of the decode engine (41 R190) -/

namespace DecodePlace
variable {s : State} (place : DecodePlace s)
include place

theorem ti_le_tcap : s.ti ≤ s.tcap := by
  obtain ⟨inSource, room, whole, consumed, -, -⟩ := place
  have fits : 3 * (s.ti / 3) ≤ deccap s.slen := deccap_holds (by omega)
  omega

/-- There is room for one triplet more while a byte is left or a symbol waits. -/
theorem room_for_triplet (more : s.si < s.slen ∨ 0 < s.wn.toNat) : s.ti + 3 ≤ s.tcap := by
  obtain ⟨inSource, room, whole, consumed, -, -⟩ := place
  have fits : 3 * (s.ti / 3 + 1) ≤ deccap s.slen := deccap_holds (by omega)
  omega

/-- Consuming bytes leads to such a place again if each triplet written has its four symbols, from the window or the source. -/
theorem decoded {w : Window} {wn : BitVec 3} {n : Nat} {bytes : List Byte} (inSource : s.si + n ≤ s.slen)
    (whole : bytes.length % 3 = 0) (symbols : 4 * (bytes.length / 3) + wn.toNat ≤ s.wn.toNat + n)
    (sym : ∀ k, k < wn.toNat → classOf s.cfg (w.slot k) = .sym) : DecodePlace (s.decoded w wn n bytes) := by
  obtain ⟨-, room, whole', consumed, line, -⟩ := place
  refine ⟨inSource, room, ?_, ?_, line, sym⟩
  · show (s.ti + bytes.length) % 3 = 0
    omega
  · show 4 * ((s.ti + bytes.length) / 3) + wn.toNat ≤ s.si + n
    omega

end DecodePlace

/-- What a step of a DECODE past its size check can do. -/
inductive DecodeStep (s t : State) : Prop
  | advances (w : Window) (wn : BitVec 3) (n : Nat) (bytes : List Byte) (pos : 0 < n) (count : wn.toNat ≤ 3)
      (ht : t = s.decoded w wn n bytes) (place : DecodePlace t)
  | ends (bytes : List Byte) (fits : s.ti + bytes.length ≤ s.tcap) (ht : t = s.endedWith bytes)
  | rejects (loud : s.flags.silent = false) (e : ErrCode) (he : e = .corrupt ∨ e = .truncated) (ht : t = raise e s)

section DecodeSteps
variable {s : State} (count : s.wn.toNat ≤ 3) (place : DecodePlace s)
include count place

theorem skipByte_decodeStep (hs : s.si < s.slen) : DecodeStep s (skipByte s) := by
  obtain ⟨-, -, -, -, -, sym⟩ := id place
  exact .advances s.w s.wn 1 [] one_pos count rfl (place.decoded (bytes := []) hs rfl (by simp) sym)

theorem exec_fetch_decodeStep (running : decodeRunning s = true) (hs : s.si < s.slen) :
    ∃ t, exec (fetch s) s = .next t ∧ DecodeStep s t := by
  have enabled : byteEnabled s = true := (byteEnabled_iff s).2 ⟨running, hs⟩
  cases hc : classOf s.cfg (srcByte s s.si) with
  | sym =>
    obtain ⟨-, -, -, -, -, sym⟩ := id place
    obtain waits | completes : s.wn.toNat < 3 ∨ s.wn = 3#3 := by bv_omega
    · have next : (s.wn + 1#3).toNat = s.wn.toNat + 1 := by bv_omega
      refine ⟨_, exec_fetch_waits enabled hc rfl waits, .advances _ _ 1 [] one_pos (by omega) rfl
        (place.decoded hs rfl (by simp [next]) fun k hk => ?_)⟩
      rw [store_slot _ _ _ _ (by omega) (by omega)]
      split
      · exact hc
      · exact sym k (by omega)
    · exact ⟨_, exec_fetch_completes enabled hc completes (place.room_for_triplet (.inl hs)),
        .advances _ _ 1 _ one_pos (by simp) rfl (place.decoded hs (by simp) (by simp [completes]) nofun)⟩
  | skip =>
    rw [fetch_skip hc, exec_dSkip enabled hc]
    exact ⟨_, rfl, skipByte_decodeStep count place hs⟩
  | ill =>
    rw [fetch_ill hc, exec_dIll enabled hc]
    refine ⟨_, rfl, ?_⟩
    cases silent : s.flags.silent with
    | true => exact skipByte_decodeStep count place hs
    | false => exact .rejects silent .corrupt (.inl rfl) rfl

theorem exec_dQuad_decodeStep (hq : quadEnabled s = true) : ∃ t, exec .dQuad s = .next t ∧ DecodeStep s t := by
  obtain ⟨-, -, hw, four, -⟩ := (quadEnabled_iff s).1 hq
  exact ⟨_, exec_dQuad hq (place.room_for_triplet (.inl (by omega))),
    .advances _ _ 4 _ (by decide) count rfl (place.decoded four (by simp) (by simp [hw]) (by simp [hw]))⟩

theorem tail_decodeStep (running : decodeRunning s = true) (alone : s.hostIn = []) (hs : s.si = s.slen) :
    ∃ t, step s = .next t ∧ DecodeStep s t := by
  obtain ⟨tail0, tail1, tail2, tail3⟩ := step_decode_tail running alone hs
  have fits := place.ti_le_tcap
  have room (waiting : 0 < s.wn.toNat) := place.room_for_triplet (.inr waiting)
  obtain hw | hw | hw | hw := windowCount_cases count
  · exact ⟨_, (tail0 hw).trans (exec_dTail0 running hs hw fits), .ends [] fits rfl⟩
  · rw [tail1 hw]
    cases silent : s.flags.silent with
    | true => exact ⟨_, exec_dTail1_silent running hs hw silent fits, .ends [] fits rfl⟩
    | false => exact ⟨_, exec_dTail1_loud running hs hw silent, .rejects silent .truncated (.inr rfl) rfl⟩
  · have fits : s.ti + 1 ≤ s.tcap := by have := room (by simp [hw]); omega
    exact ⟨_, (tail2 hw).trans (exec_dTail2 running hs hw fits), .ends (dec2 ..) fits rfl⟩
  · have fits : s.ti + 2 ≤ s.tcap := by have := room (by simp [hw]); omega
    exact ⟨_, (tail3 hw).trans (exec_dTail3 running hs hw fits), .ends (dec3 ..) fits rfl⟩

/-- The step of a DECODE past its size check. -/
theorem step_decodeStep (running : decodeRunning s = true) (alone : s.hostIn = []) :
    ∃ t, step s = .next t ∧ DecodeStep s t := by
  obtain inside | hs := place.1.lt_or_eq
  · rw [step_decode_inside running alone inside]
    split
    · exact exec_dQuad_decodeStep count place ‹_›
    · exact exec_fetch_decodeStep count place running inside
  · exact tail_decodeStep count place running alone hs

end DecodeSteps

end Sys2Proof.Machine
end

section
/-! PROOFS. The encode engine on the text of 42 R230: its place in the layout of the text, and what a step of it can do. A
quartet step writes the next quartet of the text and E.BREAK the next line break, each where it stands. -/

namespace Sys2Proof.Machine

/-! ## The place of the encode engine (42 R232) -/

/-- Where the engine stands in the text: TI is behind the symbols and line breaks written, and LINE is the last line's. -/
structure EncodeLayout (s : State) (breaks : Nat) : Prop where
  ti : s.ti = 4 * ceilDiv s.si 3 + 2 * breaks
  text : TextLayout s.flags.wrap (4 * ceilDiv s.si 3) breaks s.line.toNat
  used : s.line = 0#7 → breaks = 0 ∨ s.si < s.slen

theorem encodePlace_iff (s : State) :
    EncodePlace s ↔ s.si ≤ s.slen ∧ enclen s.slen s.flags.wrap ≤ s.tcap ∧ (s.si % 3 = 0 ∨ s.si = s.slen) ∧ s.wn = 0#3
      ∧ ∃ breaks, EncodeLayout s breaks := by
  unfold EncodePlace
  refine and_congr_right fun _ => and_congr_right fun _ => and_congr_right fun _ => and_congr_right fun _ => ?_
  cases wrap : s.flags.wrap with
  | true =>
    rw [if_pos rfl]
    refine exists_congr fun breaks => ⟨fun ⟨count, ti, last, used⟩ => ⟨ti, ?_, used⟩, fun ⟨ti, text, used⟩ => ?_⟩
    · rw [wrap]
      exact ⟨count, last⟩
    · rw [wrap] at text
      exact ⟨text.1, ti, text.2, used⟩
  | false =>
    rw [if_neg (by simp)]
    refine ⟨fun ⟨ti, line⟩ => ⟨0, ti, ?_, fun _ => .inl rfl⟩, fun ⟨breaks, ti, text, _⟩ => ?_⟩
    · rw [wrap, line]
      exact ⟨rfl, rfl⟩
    · rw [wrap] at text
      obtain ⟨rfl, line⟩ := text
      exact ⟨ti, BitVec.eq_of_toNat_eq line⟩

namespace EncodeLayout
variable {s : State} {breaks : Nat} (layout : EncodeLayout s breaks)
include layout

/-- The line breaks written, as TI tells them. -/
theorem breaks_of_ti : (s.ti - 4 * ceilDiv s.si 3) / 2 = breaks := by
  have ti := layout.ti
  omega

/-- At the end of the source TI is ENCLEN. -/
theorem breaks_at_end (hs : s.si = s.slen) : breaks = breaksOf s.slen s.flags.wrap := by
  have text := layout.text
  rw [hs] at text
  refine text.breaks_eq fun line => ?_
  exact (layout.used (BitVec.eq_of_toNat_eq line)).resolve_right (by omega)

theorem ti_at_end (hs : s.si = s.slen) : s.ti = enclen s.slen s.flags.wrap := by
  rw [layout.ti, enclen_eq, ← layout.breaks_at_end hs, hs]

/-- Where no break is due and source is left, the last line has room for a quartet. -/
theorem line_room (notDue : breakDue s = false) (more : s.si < s.slen) (wrap : s.flags.wrap = true) :
    s.line.toNat + 4 ≤ 76 := by
  have text := layout.text
  rw [wrap] at text
  obtain ⟨count, last⟩ := text
  have full : s.line.toNat ≠ 76 := fun h => by
    rw [(breakDue_iff s).2 ⟨wrap, BitVec.eq_of_toNat_eq h, more⟩] at notDue
    cases notDue
  omega

end EncodeLayout

/-- While source is left at a multiple of 3, a quartet is to come. -/
theorem quartets_lt {s : State} (whole : s.si % 3 = 0) (more : s.si < s.slen) : ceilDiv s.si 3 < ceilDiv s.slen 3 := by
  unfold ceilDiv
  omega

theorem EncodePlace.ti_le_tcap {s : State} (place : EncodePlace s) : s.ti ≤ s.tcap := by
  obtain ⟨inSource, room, whole, -, breaks, layout⟩ := (encodePlace_iff s).1 place
  refine le_trans ?_ room
  by_cases hs : s.si = s.slen
  · exact (layout.ti_at_end hs).le
  · have more := quartets_lt (whole.resolve_right hs) (by omega)
    have written := layout.text.breaks_le more
    rw [layout.ti, enclen_eq]
    omega

theorem EncodePlace.line_fits {s : State} (place : EncodePlace s) : s.line.toNat ≤ 76 ∧ s.line.toNat % 4 = 0 := by
  obtain ⟨-, -, -, -, breaks, -, text, -⟩ := (encodePlace_iff s).1 place
  unfold TextLayout at text
  split at text <;> omega

/-! ## What is written holds the text -/

theorem readCell_encoded_below {s : State} (n : Nat) (line : BitVec 7) (bytes : List Byte) {i : Nat} (h : i < s.ti) :
    readCell (s.encoded n line bytes).tgt i = readCell s.tgt i :=
  readCell_writeBytes_outside _ _ _ _ (.inl h)

theorem readCell_encoded_written {s : State} (n : Nat) (line : BitVec 7) {bytes : List Byte} {k : Nat} (h : k < bytes.length) :
    readCell (s.encoded n line bytes).tgt (s.ti + k) = bytes[k]? :=
  readCell_writeBytes_inside _ _ _ _ h

/-- Text that stands below TI is kept by a state of the same command that agrees there. -/
theorem EncodeLayout.holdsText_of_below {s t : State} {breaks : Nat} (layout : EncodeLayout s breaks)
    (holds : HoldsText s (4 * ceilDiv s.si 3) breaks) (below : ∀ i, i < s.ti → readCell t.tgt i = readCell s.tgt i)
    (flags : t.flags = s.flags) (slen : t.slen = s.slen) (source : srcByte t = srcByte s) :
    HoldsText t (4 * ceilDiv s.si 3) breaks := by
  obtain ⟨symbols, lines⟩ := holds
  rw [HoldsText, flags, slen, source]
  refine ⟨fun j hj => ?_, fun wrap i first last => ?_⟩
  · rw [below _ (layout.ti ▸ layout.text.symbolPlace_lt hj)]
    exact symbols j hj
  · have text := layout.text
    rw [wrap] at text
    obtain ⟨count, -⟩ := text
    have ti := layout.ti
    rw [below _ (by omega), below _ (by omega)]
    exact lines wrap i first last

theorem EncodeLayout.holdsText_quartet {s : State} {breaks : Nat} (layout : EncodeLayout s breaks)
    (holds : HoldsText s (4 * ceilDiv s.si 3) breaks) (room : s.flags.wrap = true → s.line.toNat + 4 ≤ 76) (n : Nat)
    (line : BitVec 7) :
    HoldsText (s.encoded n line (textQuartet (srcByte s) s.slen (ceilDiv s.si 3))) (4 * (ceilDiv s.si 3 + 1)) breaks := by
  obtain ⟨symbols, lines⟩ := layout.holdsText_of_below holds
    (t := s.encoded n line (textQuartet (srcByte s) s.slen (ceilDiv s.si 3)))
    (fun _ hi => readCell_encoded_below _ _ _ hi) rfl rfl rfl
  refine ⟨fun j hj => ?_, lines⟩
  obtain old | ⟨r, hr, rfl⟩ : j < 4 * ceilDiv s.si 3 ∨ ∃ r < 4, j = 4 * ceilDiv s.si 3 + r := by
    by_cases old : j < 4 * ceilDiv s.si 3
    · exact .inl old
    · exact .inr ⟨j - 4 * ceilDiv s.si 3, by omega, by omega⟩
  · exact symbols j old
  · have stands := layout.text.symbolPlace_next room hr
    rw [← layout.ti] at stands
    refine (congrArg _ stands).trans ((readCell_encoded_written _ _ (by simpa using hr)).trans ?_)
    exact textQuartet_getElem? _ _ _ hr

theorem EncodeLayout.holdsText_break {s : State} {breaks : Nat} (layout : EncodeLayout s breaks)
    (holds : HoldsText s (4 * ceilDiv s.si 3) breaks) (wrap : s.flags.wrap = true) (full : s.line = 76#7) (n : Nat)
    (line : BitVec 7) : HoldsText (s.encoded n line lineBreak) (4 * ceilDiv s.si 3) (breaks + 1) := by
  obtain ⟨symbols, lines⟩ := layout.holdsText_of_below holds (t := s.encoded n line lineBreak)
    (fun _ hi => readCell_encoded_below _ _ _ hi) rfl rfl rfl
  refine ⟨symbols, fun _ i first last => ?_⟩
  obtain old | rfl : i ≤ breaks ∨ i = breaks + 1 := by omega
  · exact lines wrap i first old
  · have text := layout.text
    rw [wrap, full] at text
    obtain ⟨count, -⟩ := text
    have count : 4 * ceilDiv s.si 3 = 76 * breaks + 76 := count
    have ti := layout.ti
    rw [show 78 * (breaks + 1) - 2 = s.ti + 0 by omega, show 78 * (breaks + 1) - 1 = s.ti + 1 by omega,
      readCell_encoded_written _ _ (by decide), readCell_encoded_written _ _ (by decide)]
    exact ⟨rfl, rfl⟩

/-! ## What a step can do -/

/-- The steps a running ENCODE has left before E.FINISH: the quartets and line breaks not yet written. -/
def encodeLeft (s : State) : Nat :=
  ceilDiv s.slen 3 - ceilDiv s.si 3 + (breaksOf s.slen s.flags.wrap - (s.ti - 4 * ceilDiv s.si 3) / 2)

/-- What a step of an ENCODE past its size check can do. -/
inductive EncodeStep (s t : State) : Prop
  | advances (n : Nat) (line : BitVec 7) (bytes : List Byte) (ht : t = s.encoded n line bytes) (place : EncodePlace t)
      (tracks : EncodeTracks s → EncodeTracks t) (closer : encodeLeft t < encodeLeft s)
  | ends (hs : s.si = s.slen) (fits : s.ti ≤ s.tcap) (ht : t = s.endedWith [])

theorem lineAfterQuartet_toNat {s : State} (room : s.flags.wrap = true → s.line.toNat + 4 ≤ 76) :
    (lineAfterQuartet s).toNat = if s.flags.wrap then s.line.toNat + 4 else s.line.toNat := by
  unfold lineAfterQuartet
  split
  · have := room ‹_›
    bv_omega
  · rfl

theorem EncodeLayout.quartet {s : State} {breaks n : Nat} {bytes : List Byte} (layout : EncodeLayout s breaks)
    (room : s.flags.wrap = true → s.line.toNat + 4 ≤ 76) (next : ceilDiv (s.si + n) 3 = ceilDiv s.si 3 + 1)
    (four : bytes.length = 4) : EncodeLayout (s.encoded n (lineAfterQuartet s) bytes) breaks := by
  have line := lineAfterQuartet_toNat room
  have ti := layout.ti
  refine ⟨?_, ?_, fun empty => .inl ?_⟩
  · show s.ti + bytes.length = 4 * ceilDiv (s.si + n) 3 + 2 * breaks
    omega
  · show TextLayout s.flags.wrap (4 * ceilDiv (s.si + n) 3) breaks (lineAfterQuartet s).toNat
    rw [next, line]
    exact layout.text.quartet room
  · have empty : lineAfterQuartet s = 0#7 := empty
    have text := layout.text
    cases wrap : s.flags.wrap with
    | true => simp [empty, wrap] at line
    | false =>
      rw [wrap] at text
      exact text.1

theorem EncodeLayout.lineBreak {s : State} {breaks : Nat} (layout : EncodeLayout s breaks) (due : breakDue s = true) :
    EncodeLayout (s.encoded 0 0#7 lineBreak) (breaks + 1) := by
  obtain ⟨wrap, full, more⟩ := (breakDue_iff s).1 due
  refine ⟨congrArg (· + 2) layout.ti, ?_, fun _ => .inr more⟩
  have text := layout.text
  rw [wrap, full] at text
  show TextLayout s.flags.wrap (4 * ceilDiv s.si 3) (breaks + 1) 0
  rw [wrap]
  exact text.lineBreak

section EncodeSteps
variable {s : State} (running : encodeRunning s = true) (place : EncodePlace s)
include running place

/-- A step that consumes n bytes, ends in the layout of the text again and has one thing less to write. -/
theorem encodeStep_advances {breaks breaks' n : Nat} {line : BitVec 7} {bytes : List Byte}
    (inSource : s.si + n ≤ s.slen) (whole : (s.si + n) % 3 = 0 ∨ s.si + n = s.slen) (layout : EncodeLayout s breaks)
    (layout' : EncodeLayout (s.encoded n line bytes) breaks')
    (text : HoldsText s (4 * ceilDiv s.si 3) breaks → HoldsText (s.encoded n line bytes) (4 * ceilDiv (s.si + n) 3) breaks')
    (closer : ceilDiv s.slen 3 - ceilDiv (s.si + n) 3 + (breaksOf s.slen s.flags.wrap - breaks')
      < ceilDiv s.slen 3 - ceilDiv s.si 3 + (breaksOf s.slen s.flags.wrap - breaks)) :
    EncodeStep s (s.encoded n line bytes) := by
  obtain ⟨-, room, -, empty, -⟩ := (encodePlace_iff s).1 place
  refine .advances n line bytes rfl ((encodePlace_iff _).2 ⟨inSource, room, whole, empty, breaks', layout'⟩)
    (fun tracks _ => ?_) ?_
  · have holds := tracks running
    rw [layout.breaks_of_ti] at holds
    rw [layout'.breaks_of_ti]
    exact text holds
  · rw [encodeLeft, encodeLeft, layout.breaks_of_ti, layout'.breaks_of_ti]
    exact closer

/-- A step that writes the next quartet of the text. -/
theorem emitQuartet_encodeStep (notDue : breakDue s = false) {n : Nat} {quartet : List Byte} (pos : 0 < n) (three : n ≤ 3)
    (inSource : s.si + n ≤ s.slen) (consumed : n = 3 ∨ s.si + n = s.slen)
    (text : quartet = textQuartet (srcByte s) s.slen (s.si / 3)) : EncodeStep s (emitQuartet quartet n s) := by
  obtain ⟨-, room, whole, -, breaks, layout⟩ := (encodePlace_iff s).1 place
  have more : s.si < s.slen := by omega
  have whole : s.si % 3 = 0 := by omega
  have quarter : s.si / 3 = ceilDiv s.si 3 := by unfold ceilDiv; omega
  have next : ceilDiv (s.si + n) 3 = ceilDiv s.si 3 + 1 := by unfold ceilDiv; omega
  have to_come := quartets_lt whole more
  have written := layout.text.breaks_le to_come
  have line_room := layout.line_room notDue more
  have fits : s.ti + 4 ≤ s.tcap := by
    rw [enclen_eq] at room
    rw [layout.ti]
    omega
  rw [text, quarter, emitQuartet_fits (by simpa using fits)]
  refine encodeStep_advances running place inSource (by omega) layout (layout.quartet line_room next (by simp)) ?_ (by omega)
  rw [next]
  exact fun holds => layout.holdsText_quartet holds line_room n _

theorem exec_eBreak_encodeStep (due : breakDue s = true) : ∃ t, exec .eBreak s = .next t ∧ EncodeStep s t := by
  obtain ⟨inSource, room, whole, -, breaks, layout⟩ := (encodePlace_iff s).1 place
  obtain ⟨wrap, full, more⟩ := (breakDue_iff s).1 due
  have layout' := layout.lineBreak due
  have to_come := quartets_lt (by omega) more
  have written : breaks + 1 ≤ breaksOf s.slen s.flags.wrap := layout'.text.breaks_le to_come
  have fits : s.ti + 2 ≤ s.tcap := by
    rw [enclen_eq] at room
    rw [layout.ti]
    omega
  refine ⟨_, exec_eBreak_fits running due fits, encodeStep_advances running place inSource whole layout layout'
    (fun holds => layout.holdsText_break holds wrap full 0 0#7) ?_⟩
  show ceilDiv s.slen 3 - ceilDiv s.si 3 + _ < _
  omega

/-- The step of an ENCODE past its size check (42 R211, in its order). -/
theorem encodeMove_encodeStep : ∃ t, makeMove (encodeMove s) = .next t ∧ EncodeStep s t := by
  obtain ⟨-, -, sized⟩ := (encodeRunning_iff s).1 running
  obtain ⟨inSource, -, whole, empty, -⟩ := (encodePlace_iff s).1 place
  have third (h : s.si % 3 = 0) : 3 * (s.si / 3) = s.si := by omega
  unfold encodeMove
  rw [if_neg (by simp [sized])]
  split_ifs with due group two one
  · exact exec_eBreak_encodeStep running place due
  all_goals rw [Bool.not_eq_true] at due
  · refine ⟨_, exec_eGroup running due group,
      emitQuartet_encodeStep running place due (by decide) (by decide) group (.inl rfl) ?_⟩
    rw [textQuartet_three (by omega), third (by omega)]
  · refine ⟨_, exec_eTail2 running due two,
      emitQuartet_encodeStep running place due (by decide) (by decide) two.ge (.inr two.symm) ?_⟩
    rw [textQuartet_two (by omega), third (by omega)]
  · refine ⟨_, exec_eTail1 running due one,
      emitQuartet_encodeStep running place due (by decide) (by decide) one.ge (.inr one.symm) ?_⟩
    rw [textQuartet_one (by omega), third (by omega)]
  · have hs : s.si = s.slen := by omega
    have same : s = { s with wn := 0#3 } := by rw [← empty]
    refine ⟨_, exec_eFinish running hs.ge, .ends hs place.ti_le_tcap ?_⟩
    rw [← finish_eq_endedWith hs.le place.ti_le_tcap, ← same]

end EncodeSteps

end Sys2Proof.Machine
end

section
/-! PROOFS. Which move a step makes (30 R99, 41 R161, 42 R211, 44 R271 to R274): the host's write to CMD, the size check, the
engine's step that the state selects, or none. -/

namespace Sys2Proof.Machine

/-! ## The host's write to CMD (10 R30, 30 R98) -/

/-- The command of a word's two low bits. -/
theorem decodeCommand_ofNat (word : Nat) :
    decodeCommand (BitVec.ofNat 2 word) = if word % 4 = 0 then .cmdNop else if word % 4 = 1 then .cmdDecode
      else if word % 4 = 2 then .cmdEncode else .cmdEnclen := by
  simp [decodeCommand, BitVec.toNat_eq]

/-- An action that is made at once is the host's move, whoever is BUSY. -/
theorem step_host {s : State} {a : HostAction} {rest : List HostAction} (h : s.hostIn = a :: rest) (h1 : a ≠ .run)
    (h2 : a ≠ .wait) (h3 : a = .collect → s.status ≠ .busy) : step s = makeMove (hostMove a { s with hostIn := rest }) := by
  rw [step_eq_makeMove, nextMove_host h h1 h2 h3]

/-- Settles O16: the host's move is the instruction of the word's two low bits. -/
theorem stepRunsCommandWrite : Obligations.StepRunsCommandWrite := by
  intro s word rest h free
  rw [step_host h (by simp) (by simp) (by simp), hostMove_cmd (s := { s with hostIn := rest }) word free, decodeCommand_ofNat]
  rfl

/-- While BUSY a register write is no instruction, whatever its number. -/
theorem hostMove_writeReg_busy (n word : Nat) {s : State} (busy : s.status = .busy) :
    hostMove (.writeReg n word) s = .host (.writeReg n word) s := by
  cases n with
  | zero => exact hostMove_cmd_busy word busy
  | succ n => rfl

/-- Settles O19: each of these moves is refused as a write while BUSY. -/
theorem hostKeepsOffWhileBusy : Obligations.HostKeepsOffWhileBusy := by
  intro s a rest busy h move
  obtain ⟨start, bytes, rfl⟩ | ⟨start, bytes, rfl⟩ | ⟨n, word, rfl, guarded⟩ | rfl | ⟨source, silent, rfl⟩
    | ⟨source, wrap, rfl⟩ := move
  all_goals rw [step_host h (by simp) (by simp) (by simp)]
  · exact if_pos busy
  · exact if_pos busy
  · rw [hostMove_writeReg_busy (s := { s with hostIn := rest }) n word busy]
    exact if_pos ⟨busy, decide_eq_true guarded⟩
  · exact if_pos busy
  · exact expand_busy busy
  · exact expand_busy busy

/-! ## The block alone -/

theorem step_alone {s : State} (alone : s.hostIn = []) : step s = makeMove (blockMove s) := by
  rw [step_eq_makeMove, nextMove_alone alone]

/-- Settles O51: the block's move is none. -/
theorem idleBlockHolds : Obligations.IdleBlockHolds := by
  intro s free alone
  rw [step_alone alone, blockMove_idle free]
  rfl

section Busy
variable {s : State} (busy : s.status = .busy) (alone : s.hostIn = [])
include busy alone

theorem step_unsized_decode (decode : s.opl = .decode) (unsized : s.sized = false) : step s = exec .cmdDecode s := by
  rw [step_alone alone, blockMove_decode busy decode, decodeMove, if_pos unsized]
  rfl

theorem step_unsized_encode (encode : s.opl = .encode) (unsized : s.sized = false) : step s = exec .cmdEncode s := by
  rw [step_alone alone, blockMove_encode busy encode, encodeMove, if_pos unsized]
  rfl

theorem step_enclen (enclen : s.opl = .enclen) : step s = exec .lEnclen s := by
  rw [step_alone alone, blockMove, if_neg (by simp [busy]), enclen]
  rfl

end Busy

/-! ## The size check (44 R273, R274) -/

section SizeCheck
variable {s : State} (busy : s.status = .busy) (unsized : s.sized = false)
include busy unsized

theorem exec_cmdDecode_checks (decode : s.opl = .decode) : exec .cmdDecode s = .next (sizeCheck (deccap s.slen) s) :=
  (if_neg (not_not.2 busy)).trans (if_pos ⟨decode, unsized⟩)

theorem exec_cmdEncode_checks (encode : s.opl = .encode) :
    exec .cmdEncode s = .next (sizeCheck (enclen s.slen s.flags.wrap) s) :=
  (if_neg (not_not.2 busy)).trans (if_pos ⟨encode, unsized⟩)

end SizeCheck

/-- An instruction that is the size check raises below the bound, and only passes from it on. -/
theorem sizeCheck_raises_or_passes {i : Instr} {need : Nat} {s : State} (h : exec i s = .next (sizeCheck need s)) :
    (s.tcap < need → ∃ t, exec i s = .next t ∧ ErrorEntry s t .targetTooSmall)
      ∧ (need ≤ s.tcap → exec i s = .next { s with sized := true }) := by
  refine ⟨fun short => ⟨raise .targetTooSmall s, ?_, raise_errorEntry _ s⟩, fun fits => ?_⟩
  · rw [h, sizeCheck, if_pos short]
  · rw [h, sizeCheck, if_neg (Nat.not_lt.2 fits)]

/-- Settles O17: the step is the size check, which raises below its bound. -/
theorem decodeSizeCheckFirst : Obligations.DecodeSizeCheckFirst := fun _ busy decode unsized alone =>
  ⟨step_unsized_decode busy alone decode unsized, sizeCheck_raises_or_passes (exec_cmdDecode_checks busy unsized decode)⟩

/-- Settles O18: likewise, with the bound of ENCODE. -/
theorem encodeSizeCheckFirst : Obligations.EncodeSizeCheckFirst := fun _ busy encode unsized alone =>
  ⟨step_unsized_encode busy alone encode unsized, sizeCheck_raises_or_passes (exec_cmdEncode_checks busy unsized encode)⟩

/-! ## The steps that the state selects (30 R99) -/

/-- Settles O49: before the end of the source decodeMove asks only whether D.QUAD is enabled. -/
theorem stepRunsSourceByte : Obligations.StepRunsSourceByte := by
  intro s running inside alone
  rw [step_decode_inside running alone inside]
  exact ⟨fun slow => if_neg (by simp [slow]), fun quick => if_pos quick⟩

theorem step_encode {s : State} (running : encodeRunning s = true) (alone : s.hostIn = []) :
    step s = makeMove (encodeMove s) := by
  obtain ⟨busy, encode, -⟩ := (encodeRunning_iff s).1 running
  rw [step_alone alone, blockMove_encode busy encode]

/-- Past the size check the five steps are tried in the order of 42 R211, each with its own condition. -/
theorem step_encode_selects {s : State} (running : encodeRunning s = true) (alone : s.hostIn = []) :
    (breakDue s = true → step s = exec .eBreak s)
      ∧ (breakDue s = false → s.si + 3 ≤ s.slen → step s = exec .eGroup s)
      ∧ (breakDue s = false → s.slen = s.si + 2 → step s = exec .eTail2 s)
      ∧ (breakDue s = false → s.slen = s.si + 1 → step s = exec .eTail1 s)
      ∧ (s.si = s.slen → step s = exec .eFinish s) := by
  obtain ⟨-, -, sized⟩ := (encodeRunning_iff s).1 running
  rw [step_encode running alone]
  refine ⟨fun due => ?_, fun notDue hs => ?_, fun notDue hs => ?_, fun notDue hs => ?_, fun hs => ?_⟩
  · simp [encodeMove, makeMove, sized, due]
  · simp [encodeMove, makeMove, sized, notDue, hs]
  · simp [encodeMove, makeMove, sized, notDue, hs]
  · simp [encodeMove, makeMove, sized, notDue, hs]
  · have notDue : breakDue s = false := by simp [breakDue, hs]
    simp [encodeMove, makeMove, sized, notDue, hs]

/-- Settles O50: engine by engine. -/
theorem stepRunsSelectedStep : Obligations.StepRunsSelectedStep := fun _ alone =>
  ⟨fun running hs => step_decode_tail running alone hs, fun running => step_encode_selects running alone,
   fun busy selected => step_enclen busy alone selected⟩

end Sys2Proof.Machine
end

section
/-! PROOFS. The invariant is kept by every step, and what follows from it: no overflow assertion fires, a silent DECODE does
not fail, and the engines stay on their functions. All rest on one inversion lemma for the step of a running command. -/

namespace Sys2Proof.Machine

/-! ## What the invariant says of a command -/

/-- The invariant does not speak of the host's list. -/
theorem StateInv.withHost {s : State} (inv : StateInv s) (l : List HostAction) : StateInv (s.withHost l) := inv

theorem StateInv.clean {s : State} (inv : StateInv s) (h : s.status ≠ .error) : s.errcode = .none := by
  obtain ⟨-, -, -, -, code, -⟩ := inv
  exact of_not_not fun failed => h (code.2 failed)

theorem StateInv.count {s : State} (inv : StateInv s) (busy : s.status = .busy) : s.wn.toNat ≤ 3 := by
  obtain ⟨-, -, -, -, -, small, -⟩ := inv
  exact (small (by simp [busy])).1

theorem StateInv.decodePlace {s : State} (inv : StateInv s) (running : decodeRunning s = true) : DecodePlace s := by
  obtain ⟨busy, decode, sized⟩ := (decodeRunning_iff s).1 running
  obtain ⟨-, -, -, -, -, -, command⟩ := inv
  obtain ⟨_, _, place⟩ | ⟨encode, _⟩ | ⟨_, unsized, _⟩ := command busy
  · exact place
  · cases decode.symm.trans encode
  · cases unsized.symm.trans sized

theorem StateInv.encodePlace {s : State} (inv : StateInv s) (running : encodeRunning s = true) : EncodePlace s := by
  obtain ⟨busy, encode, sized⟩ := (encodeRunning_iff s).1 running
  obtain ⟨-, -, -, -, -, -, command⟩ := inv
  obtain ⟨decode, _⟩ | ⟨_, _, place⟩ | ⟨_, unsized, _⟩ := command busy
  · cases encode.symm.trans decode
  · exact place
  · cases unsized.symm.trans sized

/-- Before its size check a command has consumed and written nothing. -/
theorem StateInv.atStart {s : State} (inv : StateInv s) (busy : s.status = .busy) (unsized : s.sized = false) :
    s.opl ≠ .nop ∧ s.si = 0 ∧ s.ti = 0 ∧ s.wn = 0#3 ∧ s.line = 0#7 := by
  obtain ⟨-, -, -, -, -, -, command⟩ := inv
  obtain ⟨_, sized, _⟩ | ⟨_, sized, _⟩ | ⟨selected, _, place⟩ := command busy
  · cases unsized.symm.trans sized
  · cases unsized.symm.trans sized
  · exact ⟨selected, place⟩

/-- A command that has passed its size check is a DECODE or an ENCODE. -/
theorem StateInv.running {s : State} (inv : StateInv s) (busy : s.status = .busy) (sized : s.sized = true) :
    decodeRunning s = true ∨ encodeRunning s = true := by
  obtain ⟨-, -, -, -, -, -, command⟩ := inv
  obtain ⟨decode, _⟩ | ⟨encode, _⟩ | ⟨_, unsized, _⟩ := command busy
  · exact .inl ((decodeRunning_iff s).2 ⟨busy, decode, sized⟩)
  · exact .inr ((encodeRunning_iff s).2 ⟨busy, encode, sized⟩)
  · cases unsized.symm.trans sized

/-! ## The step of a running command -/

/-- What the step of a running command can do from a state that meets the invariant. -/
inductive CommandStep (s t : State) : Prop
  | passes (unsized : s.sized = false) (ht : t = { s with sized := true })
      (fits : s.opl = .decode ∧ deccap s.slen ≤ s.tcap ∨ s.opl = .encode ∧ enclen s.slen s.flags.wrap ≤ s.tcap)
  | tooSmall (unsized : s.sized = false) (ht : t = raise .targetTooSmall s)
  | decodes (running : decodeRunning s = true) (made : DecodeStep s t)
  | encodes (running : encodeRunning s = true) (made : EncodeStep s t)
  | measures (selected : s.opl = .enclen) (ht : t = { s with result := enclen s.slen s.flags.wrap, status := .done })

/-- The size check of a DECODE or ENCODE is such a step. -/
theorem commandStep_sizeCheck {s : State} {need : Nat} (unsized : s.sized = false)
    (checks : need ≤ s.tcap →
      s.opl = .decode ∧ deccap s.slen ≤ s.tcap ∨ s.opl = .encode ∧ enclen s.slen s.flags.wrap ≤ s.tcap) :
    CommandStep s (sizeCheck need s) := by
  obtain ⟨_, ht⟩ | ⟨fits, ht⟩ := sizeCheck_cases need s
  · exact .tooSmall unsized ht
  · exact .passes unsized ht (checks fits)

theorem step_commandStep {s : State} (inv : StateInv s) (busy : s.status = .busy) (alone : s.hostIn = []) :
    ∃ t, step s = .next t ∧ CommandStep s t := by
  cases sized : s.sized with
  | true =>
    obtain running | running := inv.running busy sized
    · obtain ⟨t, made, ht⟩ := step_decodeStep (inv.count busy) (inv.decodePlace running) running alone
      exact ⟨t, made, .decodes running ht⟩
    · obtain ⟨t, made, ht⟩ := encodeMove_encodeStep running (inv.encodePlace running)
      exact ⟨t, (step_encode running alone).trans made, .encodes running ht⟩
  | false =>
    obtain ⟨selected, -⟩ := inv.atStart busy sized
    cases ho : s.opl with
    | nop => exact absurd ho selected
    | decode =>
      exact ⟨_, (step_unsized_decode busy alone ho sized).trans (exec_cmdDecode_checks busy sized ho),
        commandStep_sizeCheck sized fun fits => .inl ⟨ho, fits⟩⟩
    | encode =>
      exact ⟨_, (step_unsized_encode busy alone ho sized).trans (exec_cmdEncode_checks busy sized ho),
        commandStep_sizeCheck sized fun fits => .inr ⟨ho, fits⟩⟩
    | enclen => exact ⟨_, (step_enclen busy alone ho).trans (exec_lEnclen busy ho), .measures ho rfl⟩

/-! ## Any step -/

theorem makeMove_blockMove_withHost (l : List HostAction) (s : State) :
    makeMove (blockMove (s.withHost l)) = outcomeWithHost l (step (s.withHost [])) := by
  rw [step_alone rfl, ← makeMove_withHost (blockMove_ofBlock _), ← blockMove_withHost, withHost_withHost]

/-- What a step can do, by who moves: the running command, as it does alone; nobody, or only the host's list changes; the host
starts a command; or the host acts. -/
inductive StepKind (s t : State) : Prop
  | command (busy : s.status = .busy) (u : State) (l : List HostAction) (made : step (s.withHost []) = .next u)
      (ht : t = u.withHost l)
  | lists (l : List HostAction) (ht : t = s.withHost l)
  | starts (free : s.status ≠ .busy) (op : Op) (hop : op ≠ .nop) (l : List HostAction)
      (ht : t = (commandStart op s).withHost l)
  | acts (a : HostAction) (l : List HostAction) (act : HostActs a (s.withHost l) t)

theorem step_kind {s t : State} (h : step s = .next t) : StepKind s t := by
  obtain ⟨l, block | idle | ⟨a, ha, host⟩⟩ := step_source s
  · rw [h, makeMove_blockMove_withHost] at block
    by_cases busy : s.status = .busy
    · cases made : step (s.withHost []) with
      | next u => rw [made] at block; cases block; exact .command busy u l made rfl
      | fault r => rw [made] at block; cases block
      | refused r => rw [made] at block; cases block
    · rw [idleBlockHolds (s.withHost []) busy rfl] at block
      cases block
      exact .lists l rfl
  · cases idle.symm.trans h
    exact .lists l rfl
  · obtain ⟨i, instr, idle⟩ | act := hostMove_instr_or_host a (s.withHost l)
    · rw [host, instr] at h
      obtain ⟨busy, _⟩ | ⟨busy, _, _, _⟩ | ⟨free, op, hop, ht⟩ | ⟨l', ht⟩ := makeMove_instr_executes h
      · exact absurd h (idle busy t)
      · exact absurd h (idle busy t)
      · exact .starts free op hop l ht
      · exact .lists l' ht
    · rw [host, act] at h
      exact .acts a l (hostAct_acts h)

/-! ## The invariant -/

theorem raise_inv {s : State} {e : ErrCode} (inv : StateInv s) (he : e ≠ .none) : StateInv (raise e s) := by
  obtain ⟨cfg, src, -, ⟨slen, tcap, -, -, -⟩, -, -, -⟩ := inv
  have fits (n width : Nat) : n % 2 ^ width < 2 ^ width := Nat.mod_lt n (Nat.two_pow_pos width)
  exact ⟨cfg, src, nil_wf, ⟨slen, tcap, fits _ _, fits _ _, fits _ _⟩, ⟨fun _ => he, fun _ => rfl⟩, nofun, nofun⟩

theorem commandStart_inv {s : State} {op : Op} (inv : StateInv s) (hop : op ≠ .nop) : StateInv (commandStart op s) := by
  obtain ⟨cfg, src, tgt, ⟨slen, tcap, -, -, -⟩, -, -, -⟩ := inv
  exact ⟨cfg, src, tgt, ⟨slen, tcap, Nat.two_pow_pos _, Nat.two_pow_pos _, Nat.two_pow_pos _⟩, ⟨nofun, nofun⟩,
    fun _ => ⟨Nat.zero_le 3, Nat.zero_le 76, rfl⟩, fun _ => .inr (.inr ⟨hop, rfl, rfl, rfl, rfl, rfl⟩)⟩

theorem hardReset_inv {s : State} (inv : StateInv s) : StateInv (hardReset s) := by
  obtain ⟨cfg, src, -, -, -, -, -⟩ := inv
  have zero (width : Nat) : 0 < 2 ^ width := Nat.two_pow_pos width
  refine ⟨cfg, ?_, nil_wf, ⟨zero _, zero _, zero _, zero _, zero _⟩, ⟨nofun, nofun⟩,
    fun _ => ⟨Nat.zero_le 3, Nat.zero_le 76, rfl⟩, nofun⟩
  rw [hardReset_src]
  split
  · exact src
  · exact nil_wf

theorem hostActs_inv {a : HostAction} {s t : State} (inv : StateInv s) (act : HostActs a s t) : StateInv t := by
  obtain ⟨replies, draws, rfl⟩ | ⟨free, ht, src', tgt', slen', tcap'⟩ | ⟨_, rfl⟩ := act
  · exact inv
  · obtain ⟨cfg, src, tgt, ⟨slen, tcap, si, ti, result⟩, code, small, -⟩ := inv
    have widths : t.slen < 2 ^ s.cfg.lenW ∧ t.tcap < 2 ^ s.cfg.lenW := ⟨by omega, by omega⟩
    have src := src' src
    have tgt := tgt' tgt
    rw [ht]
    exact ⟨cfg, src, tgt, ⟨widths.1, widths.2, si, ti, result⟩, code, small, fun busy => absurd busy free⟩
  · exact hardReset_inv inv

theorem lenW_of_wf {c : Config} (h : c.wf = true) : 8 ≤ c.lenW := by
  simp only [Config.wf, Bool.and_eq_true, decide_eq_true_eq] at h
  obtain ⟨⟨⟨⟨h, -⟩, -⟩, -⟩, -⟩ := h
  exact h

section Start
variable {s : State} (si : s.si = 0) (ti : s.ti = 0) (wn : s.wn = 0#3) (line : s.line = 0#7)
include si ti wn line

theorem decodePlace_start (fits : deccap s.slen ≤ s.tcap) : DecodePlace s := by
  refine ⟨?_, fits, ?_, ?_, line, ?_⟩
  · omega
  · omega
  · simp [si, ti, wn]
  · simp [wn]

theorem encodePlace_start (fits : enclen s.slen s.flags.wrap ≤ s.tcap) : EncodePlace s := by
  refine (encodePlace_iff s).2 ⟨by omega, fits, .inl (by omega), wn, 0, ?_, ?_, fun _ => .inl rfl⟩
  · rw [si, ti]
    rfl
  · rw [si, line]
    cases s.flags.wrap
    · exact ⟨rfl, rfl⟩
    · exact ⟨rfl, by decide⟩

end Start

/-- A command that ends in DONE keeps the invariant if its indexes and RESULT fit. -/
theorem endedWith_inv {s : State} {bytes : List Byte} (inv : StateInv s) (busy : s.status = .busy)
    (fits : s.ti + bytes.length ≤ s.tcap) : StateInv (s.endedWith bytes) := by
  obtain ⟨cfg, src, tgt, ⟨slen, tcap, si, ti, result⟩, code, small, -⟩ := inv
  obtain ⟨-, line⟩ := small (by simp [busy])
  have width : s.ti + bytes.length < 2 ^ s.cfg.lenW := by omega
  exact ⟨cfg, src, keepBelow_wf _ _ (writeBytes_wf _ _ _ tgt),
    ⟨slen, tcap, si, width, width.trans (Nat.pow_lt_pow_right one_lt_two (Nat.lt_succ_self _))⟩,
    ⟨nofun, fun failed => absurd (code.2 failed) (by simp [busy])⟩, fun _ => ⟨Nat.zero_le 3, line⟩, nofun⟩

theorem decodeStep_inv {s t : State} (inv : StateInv s) (running : decodeRunning s = true) (made : DecodeStep s t) :
    StateInv t := by
  have busy := busy_of_decodeRunning running
  obtain ⟨w, wn, n, bytes, _, count, rfl, place⟩ | ⟨bytes, fits, rfl⟩ | ⟨_, e, he, rfl⟩ := made
  · have fits := place.ti_le_tcap
    obtain ⟨cfg, src, tgt, ⟨slen, tcap, si, ti, result⟩, code, small, -⟩ := inv
    obtain ⟨-, decode, sized⟩ := (decodeRunning_iff s).1 running
    obtain ⟨-, line⟩ := small (by simp [busy])
    exact ⟨cfg, src, writeBytes_wf _ _ _ tgt, ⟨slen, tcap, place.1.trans_lt slen, fits.trans_lt tcap, result⟩, code,
      fun _ => ⟨count, line⟩, fun _ => .inl ⟨decode, sized, place⟩⟩
  · exact endedWith_inv inv busy fits
  · exact raise_inv inv (by obtain rfl | rfl := he <;> simp)

theorem encodeStep_inv {s t : State} (inv : StateInv s) (running : encodeRunning s = true) (made : EncodeStep s t) :
    StateInv t := by
  have busy := busy_of_encodeRunning running
  obtain ⟨n, line, bytes, rfl, place, _, _⟩ | ⟨_, fits, rfl⟩ := made
  · have fits := place.ti_le_tcap
    obtain ⟨cfg, src, tgt, ⟨slen, tcap, si, ti, result⟩, code, small, -⟩ := inv
    obtain ⟨-, encode, sized⟩ := (encodeRunning_iff s).1 running
    obtain ⟨count, -⟩ := small (by simp [busy])
    exact ⟨cfg, src, writeBytes_wf _ _ _ tgt, ⟨slen, tcap, place.1.trans_lt slen, fits.trans_lt tcap, result⟩, code,
      fun _ => ⟨count, place.line_fits⟩, fun _ => .inr (.inl ⟨encode, sized, place⟩)⟩
  · exact endedWith_inv inv busy fits

theorem commandStep_inv {s t : State} (inv : StateInv s) (busy : s.status = .busy) (made : CommandStep s t) :
    StateInv t := by
  obtain ⟨unsized, rfl, fits⟩ | ⟨_, rfl⟩ | ⟨running, made⟩ | ⟨running, made⟩ | ⟨_, rfl⟩ := made
  · obtain ⟨-, si, ti, wn, line⟩ := inv.atStart busy unsized
    obtain ⟨cfg, src, tgt, widths, code, small, -⟩ := inv
    refine ⟨cfg, src, tgt, widths, code, small, fun _ => ?_⟩
    obtain ⟨decode, fits⟩ | ⟨encode, fits⟩ := fits
    · exact .inl ⟨decode, rfl, decodePlace_start si ti wn line fits⟩
    · exact .inr (.inl ⟨encode, rfl, encodePlace_start si ti wn line fits⟩)
  · exact raise_inv inv (by simp)
  · exact decodeStep_inv inv running made
  · exact encodeStep_inv inv running made
  · obtain ⟨cfg, src, tgt, ⟨slen, tcap, si, ti, result⟩, code, small, -⟩ := inv
    exact ⟨cfg, src, tgt, ⟨slen, tcap, si, ti, enclen_lt_two_pow _ (lenW_of_wf cfg) slen⟩,
      ⟨nofun, fun failed => absurd (code.2 failed) (by simp [busy])⟩, fun _ => small (by simp [busy]), nofun⟩

/-- Settles O3: whoever moves keeps it. -/
theorem stepKeepsInvariant : Obligations.StepKeepsInvariant := by
  intro s t inv h
  obtain ⟨busy, u, l, made, rfl⟩ | ⟨l, rfl⟩ | ⟨_, op, hop, l, rfl⟩ | ⟨a, l, act⟩ := step_kind h
  · obtain ⟨u', made', step⟩ := step_commandStep (inv.withHost []) busy rfl
    cases made.symm.trans made'
    exact (commandStep_inv (inv.withHost []) busy step).withHost l
  · exact inv
  · exact (commandStart_inv inv hop).withHost l
  · exact hostActs_inv (inv.withHost l) act

/-- Settles O2: nothing runs and every register is 0. -/
theorem resetMeetsInvariant : Obligations.ResetMeetsInvariant := by
  have zero (width : Nat) : 0 < 2 ^ width := Nat.two_pow_pos width
  exact ⟨rfl, nil_wf, nil_wf, ⟨zero _, zero _, zero _, zero _, zero _⟩, ⟨nofun, nofun⟩,
    fun _ => ⟨Nat.zero_le 3, Nat.zero_le 76, rfl⟩, nofun⟩

/-! ## What follows from it -/

/-- A running command raises only TARGET_TOO_SMALL, CORRUPT and TRUNCATED. -/
theorem CommandStep.errcode {s t : State} (made : CommandStep s t) : t.errcode = s.errcode ∨ t.errcode.isOverflow = false := by
  obtain ⟨_, rfl, _⟩ | ⟨_, rfl⟩ | ⟨_, made⟩ | ⟨_, made⟩ | ⟨_, rfl⟩ := made
  · exact .inl rfl
  · exact .inr rfl
  · obtain ⟨_, _, _, _, _, _, rfl, _⟩ | ⟨_, _, rfl⟩ | ⟨_, e, rfl | rfl, rfl⟩ := made
    · exact .inl rfl
    · exact .inl rfl
    · exact .inr rfl
    · exact .inr rfl
  · obtain ⟨_, _, _, rfl, _, _, _⟩ | ⟨_, _, rfl⟩ := made
    · exact .inl rfl
    · exact .inl rfl
  · exact .inl rfl

/-- Settles O41: no such step raises an overflow kind, and a start and a reset clear ERRCODE. -/
theorem overflowNeverRaised : Obligations.OverflowNeverRaised := by
  intro s t inv h before
  obtain ⟨busy, u, l, made, rfl⟩ | ⟨l, rfl⟩ | ⟨_, op, hop, l, rfl⟩ | ⟨a, l, act⟩ := step_kind h
  · obtain ⟨u', made', step⟩ := step_commandStep (inv.withHost []) busy rfl
    cases made.symm.trans made'
    exact step.errcode.elim (fun same => (congrArg ErrCode.isOverflow same).trans before) id
  · exact before
  · rfl
  · obtain ⟨replies, draws, rfl⟩ | ⟨_, ht, _, _, _, _⟩ | ⟨_, rfl⟩ := act
    · exact before
    · exact congrArg State.errcode ht ▸ before
    · rfl

/-- Settles O42: past the size check a DECODE only advances, ends in DONE, or rejects the source, which SILENT excludes. -/
theorem silentDecodeNeverFails : Obligations.SilentDecodeNeverFails := by
  intro s t inv running silent alone h
  obtain ⟨busy, decode, sized⟩ := (decodeRunning_iff s).1 running
  obtain ⟨t', made, step⟩ := step_commandStep inv busy alone
  cases h.symm.trans made
  obtain ⟨unsized, _, _⟩ | ⟨unsized, _⟩ | ⟨_, made⟩ | ⟨encoding, _⟩ | ⟨enclen, _⟩ := step
  · cases unsized.symm.trans sized
  · cases unsized.symm.trans sized
  · obtain ⟨_, _, _, _, _, _, rfl, _⟩ | ⟨_, _, rfl⟩ | ⟨loud, _, _, _⟩ := made
    · exact .inl busy
    · exact .inr rfl
    · cases loud.symm.trans silent
  · cases decode.symm.trans ((encodeRunning_iff s).1 encoding).2.1
  · cases decode.symm.trans enclen

/-! ## The engines stay on their functions -/

/-- An engine's step does not start the other engine. -/
theorem DecodeStep.not_encoding {s t : State} (made : DecodeStep s t) (running : decodeRunning s = true) :
    encodeRunning t = false := by
  obtain ⟨-, decode, -⟩ := (decodeRunning_iff s).1 running
  obtain ⟨_, _, _, _, _, _, rfl, _⟩ | ⟨_, _, rfl⟩ | ⟨_, _, _, rfl⟩ := made
  · simp [encodeRunning, State.decoded, decode]
  · rfl
  · rfl

theorem EncodeStep.not_decoding {s t : State} (made : EncodeStep s t) (running : encodeRunning s = true) :
    decodeRunning t = false := by
  obtain ⟨-, encode, -⟩ := (encodeRunning_iff s).1 running
  obtain ⟨_, _, _, rfl, _, _, _⟩ | ⟨_, _, rfl⟩ := made
  · simp [decodeRunning, State.encoded, encode]
  · rfl

/-- Before anything is consumed there is nothing to track. -/
theorem decodeTracks_start {s : State} (si : s.si = 0) (ti : s.ti = 0) (wn : s.wn = 0#3) : DecodeTracks s := by
  intro _
  rw [si, ti]
  exact ⟨⟨[], (windowSymbols_zero wn).symm, rfl, rfl⟩, fun _ => rfl⟩

theorem encodeTracks_start {s : State} (si : s.si = 0) (ti : s.ti = 0) : EncodeTracks s := by
  intro _
  rw [si, ti]
  exact ⟨fun _ hj => absurd hj (Nat.not_lt_zero _), fun _ i first last => absurd (first.trans last) (by decide)⟩

theorem decodeLoop_of_inv {s : State} (inv : StateInv s) (running : decodeRunning s = true) (alone : s.hostIn = [])
    (tracks : DecodeTracks s) : DecodeLoop s := by
  have busy := busy_of_decodeRunning running
  obtain ⟨inSource, room, -⟩ := inv.decodePlace running
  exact ⟨running, alone, inv.clean (by simp [busy]), inv.count busy, inSource, room, tracks⟩

theorem DecodeEnds.status {s t : State} (h : DecodeEnds s t) : t.status ≠ .busy := by
  obtain ⟨-, h⟩ := h
  split_ifs at h <;> simp [h.1]

/-- The step of a DecodeLoop advances it or ends the command. -/
theorem DecodeLoop.tracks_step {s t : State} (h : DecodeLoop s) (made : step s = .next t) : DecodeTracks t := by
  have ended {u : State} (ends : DecodeEnds s u) : DecodeTracks u := fun running =>
    absurd (busy_of_decodeRunning running) ends.status
  obtain hs | inside := h.inSource.eq_or_lt
  · obtain ⟨u, made', ends⟩ := h.step_tail hs
    cases made.symm.trans made'
    exact ended ends
  · obtain ⟨u, made', ⟨loop, -⟩ | ends⟩ := h.step_inside inside
    · cases made.symm.trans made'
      exact loop.tracks
    · cases made.symm.trans made'
      exact ended ends

/-- A host action only answers a read, or no command runs behind it. -/
theorem hostActs_tracks {a : HostAction} {s t : State} (act : HostActs a s t) :
    (DecodeTracks s → DecodeTracks t) ∧ (EncodeTracks s → EncodeTracks t) := by
  obtain ⟨replies, draws, rfl⟩ | ⟨free, ht, _, _, _, _⟩ | ⟨_, rfl⟩ := act
  · exact ⟨id, id⟩
  · have free : t.status ≠ .busy := congrArg State.status ht ▸ free
    exact ⟨fun _ running => absurd (busy_of_decodeRunning running) free,
      fun _ running => absurd (busy_of_encodeRunning running) free⟩
  · exact ⟨fun _ => nofun, fun _ => nofun⟩

/-- Settles O56: a running DECODE is a DecodeLoop, and no other step leads into the middle of one. -/
theorem stepKeepsDecodeTracks : Obligations.StepKeepsDecodeTracks := by
  intro s t inv tracks h
  obtain ⟨busy, u, l, made, rfl⟩ | ⟨l, rfl⟩ | ⟨_, op, hop, l, rfl⟩ | ⟨a, l, act⟩ := step_kind h
  · show DecodeTracks u
    obtain ⟨u', made', step⟩ := step_commandStep (inv.withHost []) busy rfl
    cases made.symm.trans made'
    obtain ⟨unsized, rfl, _⟩ | ⟨_, rfl⟩ | ⟨running, _⟩ | ⟨encoding, made⟩ | ⟨_, rfl⟩ := step
    · obtain ⟨-, si, ti, wn, -⟩ := inv.atStart busy unsized
      exact decodeTracks_start si ti wn
    · exact nofun
    · exact (decodeLoop_of_inv (inv.withHost []) running rfl tracks).tracks_step made
    · exact fun running => absurd (running.symm.trans (made.not_decoding encoding)) (by simp)
    · exact nofun
  · exact tracks
  · exact decodeTracks_start rfl rfl rfl
  · exact (hostActs_tracks act).1 tracks

/-- Settles O57: the step of a running ENCODE keeps it, and no other step leads into the middle of one. -/
theorem stepKeepsEncodeTracks : Obligations.StepKeepsEncodeTracks := by
  intro s t inv tracks h
  obtain ⟨busy, u, l, made, rfl⟩ | ⟨l, rfl⟩ | ⟨_, op, hop, l, rfl⟩ | ⟨a, l, act⟩ := step_kind h
  · show EncodeTracks u
    obtain ⟨u', made', step⟩ := step_commandStep (inv.withHost []) busy rfl
    cases made.symm.trans made'
    obtain ⟨unsized, rfl, _⟩ | ⟨_, rfl⟩ | ⟨decoding, made⟩ | ⟨_, made⟩ | ⟨_, rfl⟩ := step
    · obtain ⟨-, si, ti, -⟩ := inv.atStart busy unsized
      exact encodeTracks_start si ti
    · exact nofun
    · exact fun running => absurd (running.symm.trans (made.not_encoding decoding)) (by simp)
    · obtain ⟨_, _, _, _, _, kept, _⟩ | ⟨_, _, rfl⟩ := made
      · exact kept tracks
      · exact nofun
    · exact nofun
  · exact tracks
  · exact encodeTracks_start rfl rfl
  · exact (hostActs_tracks act).2 tracks

end Sys2Proof.Machine
end

section
/-! PROOFS. Runs: every command ends (00 R18, 70 R356), and an ENCODE ends with the text of 42 R230. Both rest on one lemma:
where each step ends the command or comes closer, the end is as many steps away as the measure says. -/

namespace Sys2Proof.Machine

/-! ## A measured run -/

/-- From a state of good, a step reaches an end, or a state of good that is closer and whose ends are ends of this one too. -/
theorem ends_within {good : State → Prop} {ends : State → State → Prop} {left : State → Nat}
    (moves : ∀ s, good s → ∃ t, step s = .next t ∧
      (ends s t ∨ good t ∧ left t < left s ∧ ∀ u, ends t u → ends s u)) {s : State} (h : good s) :
    ∃ k t, k ≤ left s + 1 ∧ steps k s = .next t ∧ ends s t := by
  induction hn : left s using Nat.strong_induction_on generalizing s with
  | _ n ih =>
    obtain ⟨t, made, ended | ⟨ht, closer, later⟩⟩ := moves s h
    · exact ⟨1, t, by omega, steps_succ made 0, ended⟩
    · obtain ⟨k, u, bound, run, ended⟩ := ih (left t) (hn ▸ closer) ht rfl
      exact ⟨k + 1, u, by omega, (steps_succ made k).trans run, later u ended⟩

/-! ## Every command ends -/

/-- The steps a running command has left before its last. -/
def commandLeft (s : State) : Nat :=
  if s.sized then (if s.opl = .decode then s.slen - s.si else encodeLeft s) else stepBound s - 1

theorem encodeLeft_le (s : State) : encodeLeft s ≤ ceilDiv s.slen 3 + breaksOf s.slen s.flags.wrap := by
  unfold encodeLeft
  omega

theorem stepBound_decode {s : State} (h : s.opl = .decode) : stepBound s = s.slen + 2 := by rw [stepBound, h]

theorem stepBound_encode {s : State} (h : s.opl = .encode) :
    stepBound s = ceilDiv s.slen 3 + breaksOf s.slen s.flags.wrap + 2 := by rw [stepBound, h]

theorem commandLeft_decoding {s : State} (running : decodeRunning s = true) : commandLeft s = s.slen - s.si := by
  obtain ⟨-, decode, sized⟩ := (decodeRunning_iff s).1 running
  rw [commandLeft, if_pos sized, if_pos decode]

theorem commandLeft_encoding {s : State} (running : encodeRunning s = true) : commandLeft s = encodeLeft s := by
  obtain ⟨-, encode, sized⟩ := (encodeRunning_iff s).1 running
  rw [commandLeft, if_pos sized, if_neg (by simp [encode])]

theorem commandLeft_unsized {s : State} (unsized : s.sized = false) : commandLeft s = stepBound s - 1 :=
  if_neg (by simp [unsized])

/-- Passing the size check is a step closer. -/
theorem commandLeft_passes {s : State} (busy : s.status = .busy) (unsized : s.sized = false)
    (op : s.opl = .decode ∨ s.opl = .encode) : commandLeft { s with sized := true } < commandLeft s := by
  rw [commandLeft_unsized unsized]
  obtain decode | encode := op
  · have running := (decodeRunning_iff { s with sized := true }).2 ⟨busy, decode, rfl⟩
    have after : commandLeft { s with sized := true } = s.slen - s.si := commandLeft_decoding running
    rw [stepBound_decode decode, after]
    omega
  · have running := (encodeRunning_iff { s with sized := true }).2 ⟨busy, encode, rfl⟩
    have after : encodeLeft { s with sized := true } ≤ _ := encodeLeft_le { s with sized := true }
    rw [stepBound_encode encode, commandLeft_encoding running]
    exact Nat.lt_succ_of_le after

/-- The step of a running command ends it or comes closer. -/
theorem commandStep_ends_or_closer {s t : State} (busy : s.status = .busy) (made : CommandStep s t) :
    (t.status = .done ∨ t.status = .error) ∨ t.status = .busy ∧ t.hostIn = s.hostIn ∧ commandLeft t < commandLeft s := by
  obtain ⟨unsized, rfl, fits⟩ | ⟨_, rfl⟩ | ⟨running, made⟩ | ⟨running, made⟩ | ⟨_, rfl⟩ := made
  · exact .inr ⟨busy, rfl, commandLeft_passes busy unsized (fits.imp And.left And.left)⟩
  · exact .inl (.inr rfl)
  · obtain ⟨w, wn, n, bytes, pos, _, rfl, place⟩ | ⟨_, _, rfl⟩ | ⟨_, _, _, rfl⟩ := made
    · have inSource : s.si + n ≤ s.slen := place.1
      have after : commandLeft (s.decoded w wn n bytes) = s.slen - (s.si + n) := commandLeft_decoding running
      rw [commandLeft_decoding running, after]
      exact .inr ⟨busy, rfl, by omega⟩
    · exact .inl (.inl rfl)
    · exact .inl (.inr rfl)
  · obtain ⟨n, line, bytes, rfl, _, _, closer⟩ | ⟨_, _, rfl⟩ := made
    · have after : commandLeft (s.encoded n line bytes) = encodeLeft (s.encoded n line bytes) :=
        commandLeft_encoding running
      rw [commandLeft_encoding running, after]
      exact .inr ⟨busy, rfl, closer⟩
    · exact .inl (.inl rfl)
  · exact .inl (.inl rfl)

theorem commandLeft_lt_stepBound {s : State} (inv : StateInv s) (busy : s.status = .busy) : commandLeft s < stepBound s := by
  cases sized : s.sized with
  | true =>
    obtain running | running := inv.running busy sized
    · rw [commandLeft_decoding running, stepBound_decode ((decodeRunning_iff s).1 running).2.1]
      omega
    · have left := encodeLeft_le s
      rw [commandLeft_encoding running, stepBound_encode ((encodeRunning_iff s).1 running).2.1]
      omega
  | false =>
    obtain ⟨selected, -⟩ := inv.atStart busy sized
    have pos : 0 < stepBound s := by
      cases ho : s.opl with
      | nop => exact absurd ho selected
      | decode | encode | enclen => simp [stepBound, ho]
    rw [commandLeft_unsized sized]
    omega

/-- A running command that is left to run, in a state that meets the invariant. -/
structure CommandLoop (s : State) : Prop where
  inv : StateInv s
  busy : s.status = .busy
  alone : s.hostIn = []

theorem commandLoop_ends {s : State} (h : CommandLoop s) :
    ∃ k t, k ≤ commandLeft s + 1 ∧ steps k s = .next t ∧ (t.status = .done ∨ t.status = .error) := by
  refine ends_within (ends := fun _ t => t.status = .done ∨ t.status = .error) (fun s h => ?_) h
  obtain ⟨t, made, kind⟩ := step_commandStep h.inv h.busy h.alone
  refine ⟨t, made, (commandStep_ends_or_closer h.busy kind).imp_right fun ⟨busy, same, closer⟩ => ?_⟩
  exact ⟨⟨stepKeepsInvariant s t h.inv made, busy, same.trans h.alone⟩, closer, fun _ => id⟩

/-- Settles O60: the invariant is kept and each step comes closer to the end. -/
theorem commandsEnd : Obligations.CommandsEnd := by
  intro s inv busy alone
  obtain ⟨k, t, bound, run, ended⟩ := commandLoop_ends ⟨inv, busy, alone⟩
  exact ⟨k, t, bound.trans (commandLeft_lt_stepBound inv busy), run, ended⟩

/-! ## An ENCODE writes the text -/

/-- An ENCODE past its size check, left to run, that is on 42 R230's text. -/
structure EncodeLoop (s : State) : Prop where
  inv : StateInv s
  running : encodeRunning s = true
  alone : s.hostIn = []
  tracks : EncodeTracks s

/-- t is the end that 42 R230 gives the ENCODE that runs in s. -/
def EncodeEnds (s t : State) : Prop :=
  t.src = s.src ∧ t.status = .done ∧ t.errcode = .none ∧ t.result = enclen s.slen s.flags.wrap
    ∧ HoldsText t (4 * ceilDiv s.slen 3) (breaksOf s.slen s.flags.wrap)

theorem EncodeLoop.place {s : State} (h : EncodeLoop s) : EncodePlace s := h.inv.encodePlace h.running

/-- E.FINISH leaves the whole text below RESULT. -/
theorem EncodeLoop.ends {s : State} (h : EncodeLoop s) (hs : s.si = s.slen) : EncodeEnds s (s.endedWith []) := by
  obtain ⟨-, -, -, -, breaks, layout⟩ := (encodePlace_iff s).1 h.place
  have holds := h.tracks h.running
  rw [layout.breaks_of_ti] at holds
  have text := layout.holdsText_of_below (t := s.endedWith []) holds (fun _ hi => readCell_endedWith_below [] hi) rfl rfl rfl
  rw [layout.breaks_at_end hs, hs] at text
  exact ⟨rfl, rfl, h.inv.clean (by simp [busy_of_encodeRunning h.running]), layout.ti_at_end hs, text⟩

theorem encodeLoop_ends {s : State} (h : EncodeLoop s) :
    ∃ k t, k ≤ encodeLeft s + 1 ∧ steps k s = .next t ∧ EncodeEnds s t := by
  refine ends_within (fun s h => ?_) h
  obtain ⟨t, made, kind⟩ := encodeMove_encodeStep h.running h.place
  have made := (step_encode h.running h.alone).trans made
  refine ⟨t, made, ?_⟩
  obtain ⟨n, line, bytes, rfl, _, tracks, closer⟩ | ⟨hs, _, rfl⟩ := kind
  · exact .inr ⟨⟨stepKeepsInvariant _ _ h.inv made, h.running, h.alone, tracks h.tracks⟩, closer, fun _ => id⟩
  · exact .inl (h.ends hs)

/-- Settles O59: the size check is one step, and what passes it is an EncodeLoop. -/
theorem encodeWritesText : Obligations.EncodeWritesText := by
  intro s inv _ alone
  have check := (step_unsized_encode (s := commandStart .encode s) rfl alone rfl rfl).trans
    (exec_cmdEncode_checks rfl rfl rfl)
  obtain ⟨short, raises⟩ | ⟨room, passes⟩ := sizeCheck_cases (enclen s.slen s.flags.wrap) (commandStart .encode s)
  · refine ⟨1, _, by omega, (steps_succ check 0).trans (congrArg _ raises), rfl, ?_⟩
    rw [if_pos (show s.tcap < enclen s.slen s.flags.wrap from short)]
    exact ⟨rfl, rfl⟩
  · have check := check.trans (congrArg _ passes)
    have started : EncodeLoop { commandStart .encode s with sized := true } :=
      ⟨stepKeepsInvariant _ _ (commandStart_inv inv (by simp)) check, rfl, alone, encodeTracks_start rfl rfl⟩
    obtain ⟨k, t, bound, run, source, ends⟩ := encodeLoop_ends started
    have left : encodeLeft _ ≤ ceilDiv s.slen 3 + breaksOf s.slen s.flags.wrap :=
      encodeLeft_le { commandStart .encode s with sized := true }
    refine ⟨k + 1, t, by omega, (steps_succ check k).trans run, source, ?_⟩
    rw [if_neg (show ¬ s.tcap < enclen s.slen s.flags.wrap from Nat.not_lt.2 room)]
    exact ends

end Sys2Proof.Machine
end

section
/-! PROOFS. Statements of 30_encoding.md and 40_alphabet_rom.md: the formats, the alphabet and its values, the construction of
the decode tables, the encode lookups, and that a quartet decodes to the bytes it encodes. -/

namespace Sys2Proof.Machine

/-! ## The two formats (30 R90 to R103) -/

theorem decodeByte_of_encode {c : Config} {i : Instr} {b : Byte} (h : i.wellFormed c = true) (he : encode i = some (.byte b)) :
    decodeByte c b = i := by
  cases i
  case dSym | dSkip | dIll =>
    cases he
    rw [decodeByte, beq_iff_eq.1 h]
  all_goals cases he

theorem decodeCommand_of_encode {i : Instr} {op : BitVec 2} (he : encode i = some (.cmd op)) : decodeCommand op = i := by
  cases i
  case cmdNop | cmdDecode | cmdEncode | cmdEnclen =>
    cases he
    rfl
  all_goals cases he

theorem decodeByte_wellFormed (c : Config) (b : Byte) :
    (decodeByte c b).wellFormed c = true ∧ encode (decodeByte c b) = some (.byte b) := by
  unfold decodeByte
  split <;> exact ⟨beq_iff_eq.2 ‹_›, rfl⟩

theorem decodeCommand_wellFormed (c : Config) (op : BitVec 2) :
    (decodeCommand op).wellFormed c = true ∧ encode (decodeCommand op) = some (.cmd op) := by
  unfold decodeCommand
  split_ifs with h0 h1 h2
  · exact ⟨rfl, h0 ▸ rfl⟩
  · exact ⟨rfl, h1 ▸ rfl⟩
  · exact ⟨rfl, h2 ▸ rfl⟩
  · have h3 : op = 3#2 := by bv_omega
    exact ⟨rfl, h3 ▸ rfl⟩

/-- Settles O6: format by format. -/
theorem encodeDecodeRoundTrip : Obligations.EncodeDecodeRoundTrip := by
  refine ⟨fun c i code h he => ?_, fun c i b rest h he => ?_, fun c code => ?_⟩
  · cases code with
    | byte b => exact decodeByte_of_encode h he
    | cmd op => exact decodeCommand_of_encode he
  · rw [decode, decodeByte_of_encode h he]
  · cases code with
    | byte b => exact decodeByte_wellFormed c b
    | cmd op => exact decodeCommand_wellFormed c op

/-- Settles O5: each word's format and class, by evaluation of the decoder. -/
theorem sampleWordsDecode : Obligations.SampleWordsDecode := by
  unfold Obligations.SampleWordsDecode
  decide

/-! ## The alphabet and its values (40 R131, R132) -/

/-- The value of ALPHA[v] is v: ALPHA sends each range of values onto its range of codes. -/
theorem symVal_alpha (c : Config) (v : Value) : symVal c (alpha v) = some v := by
  unfold alpha
  split_ifs with upper lower digit plus
  · unfold symVal
    rw [if_pos (by bv_omega)]
    congr 1
    bv_omega
  · unfold symVal
    rw [if_neg (by bv_omega), if_pos (by bv_omega)]
    congr 1
    bv_omega
  · unfold symVal
    rw [if_neg (by bv_omega), if_neg (by bv_omega), if_pos (by bv_omega)]
    congr 1
    bv_omega
  · rw [plus]; rfl
  · have slash : v = 63#6 := by bv_omega
    rw [slash]; rfl

theorem alpha_of_symVal {c : Config} {b : Byte} {v : Value} (h : symVal c b = some v) (minus : b ≠ 0x2D#8)
    (underscore : b ≠ 0x5F#8) (comma : b ≠ 0x2C#8) : alpha v = b := by
  unfold symVal at h
  split_ifs at h with upper lower digit plus slash
  · cases h
    unfold alpha
    rw [if_pos (by bv_omega)]
    bv_omega
  · cases h
    unfold alpha
    rw [if_neg (by bv_omega), if_pos (by bv_omega)]
    bv_omega
  · cases h
    unfold alpha
    rw [if_neg (by bv_omega), if_neg (by bv_omega), if_pos (by bv_omega)]
    bv_omega
  · cases h
    exact (plus.resolve_right minus).symm
  · cases h
    exact (slash.resolve_right underscore).symm

/-- Settles O9: range by range. -/
theorem alphabetValueInverse : Obligations.AlphabetValueInverse :=
  ⟨symVal_alpha, fun _ _ _ => alpha_of_symVal, fun _ => ⟨rfl, rfl, rfl⟩⟩

/-! ## The byte table (30 R92) -/

theorem sym_of_symVal {c : Config} {b : Byte} {v : Value} (h : symVal c b = some v) :
    classOf c b = .sym ∧ val c b = v := by
  simp [classOf, val, h]

theorem symVal_upper (c : Config) {b : Byte} (h : 0x41 ≤ b.toNat ∧ b.toNat ≤ 0x5A) :
    symVal c b = some ((b - 0x41#8).setWidth 6) := by
  unfold symVal
  rw [if_pos (by bv_omega)]

theorem symVal_lower (c : Config) {b : Byte} (h : 0x61 ≤ b.toNat ∧ b.toNat ≤ 0x7A) :
    symVal c b = some ((b - 0x61#8 + 26#8).setWidth 6) := by
  unfold symVal
  rw [if_neg (by bv_omega), if_pos (by bv_omega)]

theorem symVal_digit (c : Config) {b : Byte} (h : 0x30 ≤ b.toNat ∧ b.toNat ≤ 0x39) :
    symVal c b = some ((b - 0x30#8 + 52#8).setWidth 6) := by
  unfold symVal
  rw [if_neg (by bv_omega), if_neg (by bv_omega), if_pos (by bv_omega)]

/-- The rows of illegal bytes. -/
def inGap (n : Nat) : Prop :=
  n < 0x09 ∨ n = 0x0B ∨ n = 0x0C ∨ (0x0E ≤ n ∧ n ≤ 0x1F) ∨ (0x21 ≤ n ∧ n ≤ 0x2A) ∨ n = 0x2E ∨ (0x3A ≤ n ∧ n ≤ 0x3C)
    ∨ (0x3E ≤ n ∧ n ≤ 0x40) ∨ (0x5B ≤ n ∧ n ≤ 0x5E) ∨ n = 0x60 ∨ 0x7B ≤ n

theorem classOf_gap {b : Byte} (h : inGap b.toNat) : classOf Config.default b = .ill := by
  unfold inGap at h
  have noValue : symVal Config.default b = none := by
    unfold symVal
    rw [if_neg (by bv_omega), if_neg (by bv_omega), if_neg (by bv_omega), if_neg (by bv_omega), if_neg (by bv_omega),
      if_neg (by bv_omega)]
  have noSkip : ¬ (b ∈ Config.default.ws ∨ b = 0x3D#8) := by
    simp only [Config.default, List.mem_cons, List.not_mem_nil, or_false]
    bv_omega
  rw [classOf, noValue, if_neg (by simp), if_neg noSkip]

/-- Settles O7: the three ranges of symbols by their formulas, single bytes by evaluation, and the gaps between them. -/
theorem byteClassTable : Obligations.ByteClassTable := by
  intro b c n
  have byte {k : Nat} (hn : n = k) : BitVec.ofNat 8 k = b := by
    rw [← hn, BitVec.ofNat_toNat, BitVec.setWidth_eq]
  have skip {k : Nat} (h : classOf c (BitVec.ofNat 8 k) = .skip) (hn : n = k) : classOf c b = .skip := byte hn ▸ h
  have sym {k : Nat} {v : Value} (h : symVal c (BitVec.ofNat 8 k) = some v) (hn : n = k) :
      classOf c b = .sym ∧ val c b = v := byte hn ▸ sym_of_symVal h
  have gap (h : inGap n) : classOf c b = .ill := classOf_gap h
  unfold inGap at gap
  refine ⟨fun h => gap (by omega), fun h => h.elim (skip rfl) (skip rfl), fun h => gap (by omega), skip rfl,
    fun h => gap (by omega), skip rfl, fun h => gap (by omega), sym rfl, sym rfl, sym rfl, fun h => gap (by omega),
    sym rfl, fun h => ?_, fun h => gap (by omega), skip rfl, fun h => gap (by omega), fun h => ?_,
    fun h => gap (by omega), sym rfl, fun h => gap (by omega), fun h => ?_, fun h => gap (by omega)⟩
  · obtain ⟨sym, value⟩ := sym_of_symVal (symVal_digit c h)
    exact ⟨sym, by rw [value]; bv_omega⟩
  · obtain ⟨sym, value⟩ := sym_of_symVal (symVal_upper c h)
    exact ⟨sym, by rw [value]; bv_omega⟩
  · obtain ⟨sym, value⟩ := sym_of_symVal (symVal_lower c h)
    exact ⟨sym, by rw [value]; bv_omega⟩

/-! ## The construction of the decode tables (40 R134) -/

theorem dtab_of_symVal {c : Config} {b : Byte} {v : Value} (h : symVal c b = some v) (p : Fin 4) :
    dtab c p b = symEntry p v := by
  obtain ⟨sym, value⟩ := sym_of_symVal h
  rw [dtab_sym sym, value]

/-- A pass that overwrites the places f k with the entries g k leaves e at b if every write there is e, and one is made or e
stood there before. -/
theorem foldl_overwrite {ι : Type} {f : ι → Byte} {g : ι → Entry} {b : Byte} {e : Entry} {l : List ι} {t : Byte → Entry}
    (same : ∀ k ∈ l, f k = b → g k = e) (reached : (∃ k ∈ l, f k = b) ∨ t b = e) :
    l.foldl (fun t k => overwrite t (f k) (g k)) t b = e := by
  induction l generalizing t with
  | nil => simpa using reached
  | cons k l ih =>
    refine ih (fun k' hk' => same k' (List.mem_cons_of_mem k hk')) ?_
    by_cases hk : f k = b
    · exact .inr ((if_pos hk.symm).trans (same k List.mem_cons_self hk))
    · obtain ⟨k', hk', hb⟩ | before := reached
      · obtain rfl | later := List.mem_cons.1 hk'
        · exact absurd hb hk
        · exact .inl ⟨k', later, hb⟩
      · exact .inr ((if_neg (Ne.symm hk)).trans before)

/-- The second pass: whitespace and padding. -/
theorem skipPass (c : Config) (b : Byte) :
    overwrite (c.ws.foldl (fun t b => overwrite t b skipEntry) fun _ => illEntry) 0x3D#8 skipEntry b
      = if b ∈ c.ws ∨ b = 0x3D#8 then skipEntry else illEntry := by
  by_cases pad : b = 0x3D#8
  · simp [overwrite, pad]
  by_cases space : b ∈ c.ws
  · rw [overwrite, if_neg pad, if_pos (.inl space)]
    exact foldl_overwrite (f := id) (fun _ _ _ => rfl) (.inl ⟨b, space, rfl⟩)
  · rw [overwrite, if_neg pad, if_neg (by simp [pad, space])]
    exact foldl_overwrite (f := id) (fun k hk hb => absurd (hb ▸ hk) space) (.inr rfl)

/-- The third pass on the canonical symbols, wherever it starts from: ALPHA reaches the byte of each value and no other. -/
theorem canonicalPass (c : Config) (p : Fin 4) (t : Byte → Entry) {b : Byte} (minus : b ≠ 0x2D#8) (underscore : b ≠ 0x5F#8)
    (comma : b ≠ 0x2C#8) :
    (List.range 64).foldl (fun t v => overwrite t (alpha (BitVec.ofNat 6 v)) (symEntry p (BitVec.ofNat 6 v))) t b
      = ((symVal c b).map (symEntry p)).getD (t b) := by
  cases h : symVal c b with
  | some v =>
    refine foldl_overwrite (fun k _ hk => ?_) (.inl ⟨v.toNat, List.mem_range.2 v.isLt, ?_⟩)
    · rw [← hk, symVal_alpha] at h
      rw [Option.some.inj h]
      rfl
    · rw [BitVec.ofNat_toNat, BitVec.setWidth_eq]
      exact alpha_of_symVal h minus underscore comma
  | none =>
    refine foldl_overwrite (fun k _ hk => ?_) (.inr rfl)
    rw [← hk, symVal_alpha] at h
    cases h

/-- Settles O10: the last write to a byte's place is that of its class and value. -/
theorem romConstructionMatches : Obligations.RomConstructionMatches := by
  intro c _ p b
  by_cases comma : b = 0x2C#8
  · subst comma
    exact (dtab_of_symVal (c := c) (v := c.comma) rfl p).symm
  by_cases underscore : b = 0x5F#8
  · subst underscore
    exact (dtab_of_symVal (c := c) (v := 63#6) rfl p).symm
  by_cases minus : b = 0x2D#8
  · subst minus
    exact (dtab_of_symVal (c := c) (v := 62#6) rfl p).symm
  have outer : dtabBuilt c p b = _ := (if_neg comma).trans ((if_neg underscore).trans (if_neg minus))
  rw [outer, canonicalPass c p _ minus underscore comma]
  cases h : symVal c b with
  | some v => exact (dtab_of_symVal h p).symm
  | none =>
    simp only [skipPass, dtab, classOf, h]
    split <;> rfl

/-! ## The encode lookups (40 R141 to R143) -/

/-- Settles O11: the lookups by slices; 64 has no bits below bit 6, and the mask clears only bits below bit 2. -/
theorem encodeLookupsGiveSlices : Obligations.EncodeLookupsGiveSlices := by
  refine ⟨enc3_slices, fun w => congrArg alpha ?_, fun b => congrArg alpha ?_⟩
  · rw [BitVec.setWidth_add _ _ (by decide)]
    exact BitVec.add_zero _
  · apply BitVec.eq_of_getLsbD_eq
    intro i hi
    interval_cases i <;> simp

/-! ## What is encoded decodes to itself (41 R194) -/

theorem classOf_alpha (c : Config) (v : Value) : classOf c (alpha v) = .sym := (sym_of_symVal (symVal_alpha c v)).1

theorem val_alpha (c : Config) (v : Value) : val c (alpha v) = v := (sym_of_symVal (symVal_alpha c v)).2

/-- The word of four canonical symbols is their values side by side. -/
theorem quartetEntry_alpha (c : Config) (v0 v1 v2 v3 : Value) :
    (quartetEntry c (alpha v0) (alpha v1) (alpha v2) (alpha v3)).setWidth 24 = v0 ++ v1 ++ v2 ++ v3 := by
  rw [quartetEntry_of_sym (classOf_alpha c v0) (classOf_alpha c v1) (classOf_alpha c v2) (classOf_alpha c v3)]
  simp only [val_alpha]

/-- The slices of a triplet side by side are its bytes side by side (30 R97). -/
theorem slices_append (x y z : Byte) :
    x.extractLsb' 2 6 ++ (x.extractLsb' 0 2 ++ y.extractLsb' 4 4 : BitVec 6)
      ++ (y.extractLsb' 0 4 ++ z.extractLsb' 6 2 : BitVec 6) ++ z.extractLsb' 0 6 = x ++ y ++ z := by
  apply BitVec.eq_of_getLsbD_eq
  intro i hi
  simp only [BitVec.getLsbD_append]
  interval_cases i <;> simp

theorem bytes_of_append (x y z : Byte) : (x ++ y ++ z).extractLsb' 16 8 = x ∧ (x ++ y ++ z).extractLsb' 8 8 = y
    ∧ (x ++ y ++ z).extractLsb' 0 8 = z := by
  refine ⟨?_, ?_, ?_⟩
  all_goals
    apply BitVec.eq_of_getLsbD_eq
    intro i hi
    rw [BitVec.getLsbD_extractLsb', BitVec.getLsbD_append, BitVec.getLsbD_append]
    interval_cases i <;> simp

theorem dec4_of_encoded (c : Config) (x y z : Byte) :
    dec4 c (symbol0 x) (symbol1 x y) (symbol2 y z) (symbol3 z) = [x, y, z] := by
  have word : (quartetEntry c (symbol0 x) (symbol1 x y) (symbol2 y z) (symbol3 z)).setWidth 24 = x ++ y ++ z := by
    rw [symbol0_slice, symbol1_slice, symbol2_slice, symbol3_slice, quartetEntry_alpha]
    exact slices_append x y z
  obtain ⟨byte0, byte1, byte2⟩ := bytes_of_append x y z
  simp only [dec4, wordByte0_setWidth, wordByte1_setWidth, wordByte2_setWidth, word, byte0, byte1, byte2]

/-- Settles O13: a tail is a triplet whose missing bytes are 0, whose missing symbols are A. -/
theorem tripletRoundTrip : Obligations.TripletRoundTrip := by
  intro c x y z
  refine ⟨dec4_of_encoded c x y z, ?_, ?_⟩
  · rw [dec2_eq_dec4_take]
    exact congrArg (List.take 1) (dec4_of_encoded c x 0#8 0#8)
  · rw [dec3_eq_dec4_take]
    exact congrArg (List.take 2) (dec4_of_encoded c x y 0#8)

end Sys2Proof.Machine
end

section
/-! PROOFS. Statements of 41_decode_fsm.md and 60_exceptions.md: D.QUAD, and the assertions of the steps that write and of the
steps that end a command. -/

namespace Sys2Proof.Machine

/-! ## D.QUAD (41 R175) -/

/-- Settles O23: the single SPECIAL check says that all four bytes are symbols. -/
theorem quadEnabledExactly : Obligations.QuadEnabledExactly := by
  intro s
  rw [quadEnabled_iff, decodeRunning_iff]
  simp only [and_assoc]

/-- Settles O24: D.QUAD with room consumes four bytes and writes their triplet. -/
theorem quadWritesTriplet : Obligations.QuadWritesTriplet := fun _ hq hr =>
  ⟨_, exec_dQuad hq hr, rfl, targetWritten_of_writeBytes rfl⟩

/-! ## What raises leaves the error entry -/

theorem raises_of_next {i : Instr} {s t : State} {e : ErrCode} (h : exec i s = .next t) (ht : t = raise e s) :
    ∃ t, exec i s = .next t ∧ ErrorEntry s t e := ⟨t, h, ht ▸ raise_errorEntry e s⟩

/-! ## The assertions of the TAIL step (41 R180, R185) -/

theorem emptied_past_source {s : State} (hs : s.slen < s.si) : finish { s with wn := 0#3 } = raise .sourceOverflow s :=
  finish_past_source (s := { s with wn := 0#3 }) hs

/-- Bytes that fit, behind the end of the source. -/
theorem emit_finish_past_source {s : State} {bytes : List Byte} (hs : s.slen < s.si) (hr : s.ti + bytes.length ≤ s.tcap) :
    emit bytes finish { s with wn := 0#3 } = raise .sourceOverflow s := by
  rw [emit_fits (s := { s with wn := 0#3 }) hr]
  exact finish_past_source (s := { s with wn := 0#3, tgt := writeBytes s.tgt s.ti bytes, ti := s.ti + bytes.length }) hs

/-- Settles O30: both assertions of finish, behind whatever the arm has written. -/
theorem tailAssertionsRaise : Obligations.TailAssertionsRaise := by
  intro s running
  refine ⟨fun hs => ?_, fun hs hr => ?_⟩
  · have tail : tailEnabled s = true := (tailEnabled_iff s).2 ⟨running, hs.le⟩
    refine ⟨fun hw => raises_of_next (exec_tail0 tail hw) (finish_past_source hs),
      fun hw silent => raises_of_next (exec_tail1 tail hw) ((if_pos silent).trans (emptied_past_source hs)),
      fun hw hr => raises_of_next (exec_tail2 tail hw) (emit_finish_past_source hs hr),
      fun hw hr => raises_of_next (exec_tail3 tail hw) (emit_finish_past_source hs hr)⟩
  · have tail := tailEnabled_of_exhausted running hs
    exact ⟨fun hw => raises_of_next (exec_tail0 tail hw) (finish_past_target hs.le hr),
      fun hw silent => raises_of_next (exec_tail1 tail hw)
        ((if_pos silent).trans (finish_past_target (s := { s with wn := 0#3 }) hs.le hr))⟩

/-- Settles O31: the TAIL step finds no arm for the count, and a push finds no slot. -/
theorem windowViolationRaises : Obligations.WindowViolationRaises := by
  intro s running count
  refine ⟨fun hs alone => ⟨raise .window s, ?_, raise_errorEntry _ s⟩, fun b hs hc => ?_⟩
  · obtain ⟨-, -, sized⟩ := (decodeRunning_iff s).1 running
    rw [step_decode running alone, decodeMove, if_neg (by simp [sized]), if_neg (Nat.not_lt.2 hs), if_neg (by bv_omega),
      if_neg (by bv_omega), if_neg (by bv_omega), if_neg (by bv_omega)]
    rfl
  · exact raises_of_next (exec_dSym ((byteEnabled_iff s).2 ⟨running, hs⟩) hc) (if_pos (by bv_omega))

/-! ## The assertion of the steps that write (20 R63) -/

/-- A push that completes a quartet and has no room. -/
theorem pushSymbol_overflows {b : Byte} {s : State} (hw : s.wn = 3#3) (hr : s.tcap < s.ti + 3) :
    pushSymbol b s = raise .targetOverflow s := by
  unfold pushSymbol
  rw [if_neg (by simp [hw])]
  dsimp only
  rw [if_pos (by simp [hw]), emit_overflows hr]
  rfl

/-- Settles O37: every step that writes does so by emit, which checks the room first. -/
theorem targetBoundRaises : Obligations.TargetBoundRaises := by
  refine ⟨fun b s he hc hw hr => ?_, fun s hq hr => ?_, fun s tail hw hr => ?_, fun s tail hw hr => ?_,
    fun s running due hr => ?_, fun s running notDue hr => ⟨fun hs => ?_, fun hs => ?_, fun hs => ?_⟩⟩
  · exact raises_of_next (exec_dSym he hc) (pushSymbol_overflows hw hr)
  · exact raises_of_next (if_pos hq) (emit_overflows hr)
  · exact raises_of_next (exec_tail2 tail hw) (emit_overflows (s := { s with wn := 0#3 }) hr)
  · exact raises_of_next (exec_tail3 tail hw) (emit_overflows (s := { s with wn := 0#3 }) hr)
  · exact raises_of_next (exec_eBreak running due) (emit_overflows hr)
  · exact raises_of_next (exec_eGroup running notDue hs) (emit_overflows hr)
  · exact raises_of_next (exec_eTail2 running notDue hs) (emit_overflows hr)
  · exact raises_of_next (exec_eTail1 running notDue hs) (emit_overflows hr)

end Sys2Proof.Machine
end

section
/-! PROOFS. The host (10 R30 to R37, 44 R278 to R280, 70 R340, R341): its reads and writes of registers and buffers, its reset,
and the public forms. -/

namespace Sys2Proof.Machine

/-! ## Registers -/

/-- A host action that is made at once and is no instruction. -/
theorem step_hostAct {s : State} {a : HostAction} {rest : List HostAction} (h : s.hostIn = a :: rest) (h1 : a ≠ .run)
    (h2 : a ≠ .wait) (h3 : a = .collect → s.status ≠ .busy)
    (host : hostMove a { s with hostIn := rest } = .host a { s with hostIn := rest }) :
    step s = hostAct a { s with hostIn := rest } := by
  rw [step_host h h1 h2 h3, host]
  rfl

theorem step_readReg {s : State} {n : Nat} {rest : List HostAction} (h : s.hostIn = .readReg n :: rest) :
    step s = .next (readReg n { s with hostIn := rest }) :=
  step_hostAct h (by simp) (by simp) (by simp) rfl

/-- Two different bits do not carry. -/
theorem two_pow_add_two_pow_eq_or {i j : Nat} (apart : i ≠ j) : 2 ^ i + 2 ^ j = 2 ^ i ||| 2 ^ j := by
  obtain below | above := Nat.lt_or_gt_of_ne apart
  · rw [Nat.add_comm, Nat.or_comm]
    simpa using Nat.two_pow_add_eq_or_of_lt (Nat.pow_lt_pow_right one_lt_two below) 1
  · simpa using Nat.two_pow_add_eq_or_of_lt (Nat.pow_lt_pow_right one_lt_two above) 1

/-- The bits of a FLAGS word: SILENT and WRAP in their places, and no other (10 R31). -/
theorem flagsWord_testBit {c : Config} (apart : c.silentBit ≠ c.wrapBit) (f : Flags) (k : Nat) :
    (flagsWord c f).testBit k = ((f.silent && k == c.silentBit) || (f.wrap && k == c.wrapBit)) := by
  have bit (i : Nat) : (2 ^ i).testBit k = (k == i) := by
    rw [Nat.testBit_two_pow, beq_eq_decide, decide_eq_decide]
    exact eq_comm
  obtain ⟨silent, wrap⟩ := f
  cases silent <;> cases wrap
  · simp [flagsWord]
  · simp [flagsWord, bit]
  · simp [flagsWord, bit]
  · simp [flagsWord, bit, two_pow_add_two_pow_eq_or apart]

/-- Settles O43: regValue, number by number. -/
theorem registerReads : Obligations.RegisterReads := by
  intro s n rest h value
  refine ⟨regValue s n, ?_, ?_⟩
  · rw [step_readReg h, readReg, if_neg fun ⟨result, busy⟩ => value.elim (· result) (· busy)]
    rfl
  refine ⟨?_, ?_, ?_, ?_, ?_, ?_, ?_, fun reserved => ?_⟩
  · rintro rfl; rfl
  · rintro rfl apart k; exact flagsWord_testBit apart s.flags k
  · rintro rfl; rfl
  · rintro rfl; rfl
  · rintro rfl; show statusCode s.status = _; cases s.status <;> rfl
  · rintro rfl; show errorCode s.errcode = _; cases s.errcode <;> rfl
  · rintro rfl; rfl
  · obtain ⟨m, rfl⟩ := Nat.exists_eq_add_of_le' reserved
    rfl

/-- Settles O44: the free value, cut to its width. -/
theorem resultReadWhileBusy : Obligations.ResultReadWhileBusy := by
  intro s rest h busy
  refine ⟨Config.freeResult s.draws % 2 ^ (s.cfg.lenW + 1), Nat.mod_lt _ (Nat.two_pow_pos _), ?_⟩
  rw [step_readReg h, readReg, if_pos ⟨rfl, busy⟩]

/-- A write to a register other than CMD, where the host may make it. -/
theorem step_writeReg {s : State} {n word : Nat} {rest : List HostAction} (h : s.hostIn = .writeReg n word :: rest)
    (pos : 0 < n) (free : s.status = .busy → 3 < n) : step s = .next (writeReg n word { s with hostIn := rest }) := by
  obtain ⟨m, rfl⟩ := Nat.exists_eq_succ_of_ne_zero pos.ne'
  refine (step_hostAct h (by simp) (by simp) (by simp) rfl).trans (if_neg fun ⟨busy, guarded⟩ => ?_)
  have := free busy
  have := of_decide_eq_true guarded
  omega

/-- Settles O45: writeReg, number by number. -/
theorem registerWrites : Obligations.RegisterWrites := by
  intro s n word rest h
  refine ⟨?_, ?_, ?_, fun ignored => ?_⟩
  · rintro rfl free; exact step_writeReg h (by decide) fun busy => absurd busy free
  · rintro rfl free; exact step_writeReg h (by decide) fun busy => absurd busy free
  · rintro rfl free; exact step_writeReg h (by decide) fun busy => absurd busy free
  · obtain ⟨m, rfl⟩ := Nat.exists_eq_add_of_le' ignored
    exact step_writeReg h (by omega) fun _ => by omega

/-! ## Buffers (44 R278) -/

/-- Settles O46: the laws of the memory for the two writes, and the held byte for the read. -/
theorem bufferAccesses : Obligations.BufferAccesses := by
  refine ⟨fun s start bytes rest h free fits => ?_, fun s start bytes rest h free fits => ?_,
    fun s i rest v h done below room held => ?_⟩
  · have made : step s = .next { s with hostIn := rest, src := writeBytes s.src start bytes } :=
      (step_hostAct h (by simp) (by simp) (by simp) rfl).trans ((if_neg free).trans (if_neg (Nat.not_lt.2 fits)))
    exact ⟨_, made, rfl, fun k hk => readCell_writeBytes_inside _ _ _ _ hk,
      fun i hi => readCell_writeBytes_outside _ _ _ _ hi⟩
  · have made : step s = .next { s with hostIn := rest, tgt := writeBytes s.tgt start bytes } :=
      (step_hostAct h (by simp) (by simp) (by simp) rfl).trans ((if_neg free).trans (if_neg (Nat.not_lt.2 fits)))
    exact ⟨_, made, rfl, targetWritten_of_writeBytes rfl⟩
  · refine (step_hostAct h (by simp) (by simp) (by simp) rfl).trans ((if_neg (Nat.not_le.2 room)).trans ?_)
    rw [targetByte_held (s := { s with hostIn := rest }) done below held]

/-! ## The reset (70 R340, R341) -/

/-- Settles O47: the fields of hardReset. -/
theorem hostResetAnyTime : Obligations.HostResetAnyTime := by
  intro s rest h
  refine ⟨hardReset { s with hostIn := rest }, step_hostAct h (by simp) (by simp) (by simp) rfl, rfl, rfl, rfl, rfl, rfl, rfl,
    rfl, rfl, rfl, rfl, rfl, rfl, fun _ => rfl, fun busy => if_pos busy, fun free i => ?_, rfl, rfl⟩
  rw [hardReset_src, if_neg free]
  rfl

/-! ## The public forms (44 R279, R280) -/

theorem expand_fits {source : List Byte} {actions : List HostAction} {s : State} (free : s.status ≠ .busy)
    (fits : source.length < 2 ^ s.cfg.lenW) : expand source actions s = .next { s with hostIn := actions ++ s.hostIn } :=
  (if_neg free).trans (if_neg (Nat.not_le.2 fits))

theorem collectResult_holds (s : State) : ∃ bs : List Byte, bs.length = s.result
    ∧ (s.status = .done → ∀ i v, i < s.result → readCell s.tgt i = some v → bs[i]? = some v)
    ∧ (s.status ≠ .error → collectResult s = { s with replies := .bytes bs :: s.replies, draws := s.draws + 1 }) := by
  refine ⟨(List.range s.result).map (targetByte s), by simp, fun done i v below held => ?_, collectResult_bytes⟩
  simp [below, targetByte_held done below held]

/-- Settles O48: the two expansions, then the two actions. -/
theorem publicFormsExpand : Obligations.PublicFormsExpand := by
  refine ⟨fun s source free fits => ⟨fun silent => ?_, fun wrap => ?_⟩, fun s rest h free => ?_,
    fun s rest h => ⟨fun failed => ?_, fun fine free => ?_⟩⟩
  · refine (expand_fits free fits).trans ?_
    simp [decodeExpansion, flagsWord, deccap, ceilDiv]
  · refine (expand_fits free fits).trans ?_
    simp [encodeExpansion, flagsWord]
  · exact (step_hostAct h (by simp) (by simp) (by simp) rfl).trans (if_neg free)
  · rw [step_hostAct h (by simp) (by simp) (by simp [failed]) rfl]
    exact congrArg _ (collectResult_error (s := { s with hostIn := rest }) failed)
  · obtain ⟨bs, length, held, bytes⟩ := collectResult_holds { s with hostIn := rest }
    refine ⟨bs, length, held, ?_⟩
    rw [step_hostAct h (by simp) (by simp) (fun _ => free) rfl]
    exact congrArg _ (bytes fine)

end Sys2Proof.Machine
end
